-- ==== Sys2Proof/Word.lean ====
section
/-! DEFINITION. The words of the RTP transport block: bytes, 16-bit checksum values and 32-bit fields
(spec 00_scope R12). -/

namespace Sys2Proof

/-- A `u8` (R12). -/
abbrev Byte := BitVec 8

/-- A 16-bit checksum value (R9, `CSUM_W`). -/
abbrev Half := BitVec 16

/-- A `u32`: registers, sequence numbers, lengths, ticks (R9, `SEQ_W`, `TIME_W`). -/
abbrev Word := BitVec 32

/-- A frame or a payload: bytes in wire order (R13). -/
abbrev Bytes := List Byte

/-- `HDR_BYTES` (R9). -/
abbrev hdrBytes : Nat := 16

/-- `MAX_PAYLOAD` (R9). -/
abbrev maxPayload : Nat := 1456

/-- `RXBUF_BYTES` (R9). -/
abbrev rxbufBytes : Nat := 2048

/-- `FBUF_BYTES` (R9). -/
abbrev fbufBytes : Nat := 2048

/-- The most payload bytes a received frame can show: `RXBUF_BYTES − HDR_BYTES` (10_state R54). -/
abbrev maxRxPayload : Nat := 2032

end Sys2Proof
end

