-- ==== Sys2Proof/Machine/Checksum.lean ====
section
/-! DEFINITION. Byte sequences and the Checksum-16 unit (spec 00_scope R13; 40_checksum R140 to R143). -/

namespace Sys2Proof.Machine

/-- `be32(v)`: most significant byte first (00_scope R13, 20_memory R84). -/
def be32 (v : Word) : Bytes :=
  [v.extractLsb' 24 8, v.extractLsb' 16 8, v.extractLsb' 8 8, v.extractLsb' 0 8]

/-- `rd_be32(b, i)`: the four bytes from `i` on, most significant first (00_scope R13). -/
def rdBe32 (b : Bytes) (i : Nat) : Word :=
  b.getD i 0 ++ b.getD (i + 1) 0 ++ b.getD (i + 2) 0 ++ b.getD (i + 3) 0

/-- The loop of `fold16` (40_checksum R140) for at most `fuel` turns. -/
def foldLoop : Nat → Nat → Nat
  | 0, x => x
  | fuel + 1, x => if x > 0xFFFF then foldLoop fuel (x % 0x10000 + x / 0x10000) else x

/-- `fold16(x)`: end-around carries until 16 bits are left (40_checksum R140). A turn makes a value above
0xFFFF smaller, so `x` turns are enough. -/
def fold16 (x : Nat) : Nat := foldLoop x x

/-- The exact sum of the big-endian 16-bit words of a byte sequence; an odd last byte is a high byte
(40_checksum R141). -/
def wordSum : Bytes → Nat
  | [] => 0
  | [a] => a.toNat * 256
  | a :: b :: rest => a.toNat * 256 + b.toNat + wordSum rest

/-- `csum16(b)`: the one's complement of the folded sum (40_checksum R142). -/
def csum16 (b : Bytes) : Half := ~~~ BitVec.ofNat 16 (fold16 (wordSum b))

/-- `frame_csum(t, q, l, p)`: the checksum field is zero while summing (40_checksum R143). -/
def frameCsum (t q l : Word) (p : Bytes) : Half :=
  csum16 (be32 t ++ be32 q ++ be32 l ++ be32 0 ++ p)

end Sys2Proof.Machine
end

