-- ==== Sys2Proof/Machine/Codec.lean ====
section
/-! DEFINITION. The packet-frame codec (spec 30_encoding R111 to R115; 41_codec R160 to R164): the frame
header, `encode`, `decode`, `verify` and reception. -/

namespace Sys2Proof.Machine

/-- The four header fields, all 32 bits of each (30_encoding R111). -/
structure Header where
  type   : Word
  seq    : Word
  length : Word
  csum   : Word
deriving DecidableEq, Repr

/-- The packet type codes of 30_encoding R112. -/
abbrev typeStart : Word := 0
abbrev typeEnd : Word := 1
abbrev typeData : Word := 2
abbrev typeAck : Word := 3

/-- The 16 header bytes, each field big-endian (30_encoding R111, R113). -/
def headerBytes (h : Header) : Bytes :=
  be32 h.type ++ be32 h.seq ++ be32 h.length ++ be32 h.csum

/-- The header `encode` stamps: the payload's length and the zero-extended checksum (41_codec R160). -/
def stampedHeader (t q : Word) (p : Bytes) : Header :=
  { type := t, seq := q, length := BitVec.ofNat 32 p.length,
    csum := (frameCsum t q (BitVec.ofNat 32 p.length) p).setWidth 32 }

/-- `encode(t, q, p)` (41_codec R160). -/
def encodeFrame (t q : Word) (p : Bytes) : Bytes := headerBytes (stampedHeader t q p) ++ p

/-- `decode(f)`: the header and at most `length` payload bytes; `none` is `NO_HEADER` (41_codec R162). -/
def decodeFrame (f : Bytes) : Option (Header × Bytes) :=
  if f.length < hdrBytes then none
  else
    let hdr : Header :=
      { type := rdBe32 f 0, seq := rdBe32 f 4, length := rdBe32 f 8, csum := rdBe32 f 12 }
    some (hdr, (f.drop hdrBytes).take (min hdr.length.toNat (f.length - hdrBytes)))

/-- `verify(hdr, p)`: the whole 32-bit field is compared (41_codec R163). -/
def verifyFrame (h : Header) (p : Bytes) : Bool :=
  h.csum == (frameCsum h.type h.seq h.length p).setWidth 32

/-- What reception makes of a frame that has a header: `SOME(hdr, p, ok)` of 41_codec R164. -/
structure Parsed where
  hdr     : Header
  payload : Bytes
  ok      : Bool
deriving DecidableEq, Repr

/-- A header and payload with their verify outcome (41_codec R164). -/
def parsedOf (h : Header) (p : Bytes) : Parsed := { hdr := h, payload := p, ok := verifyFrame h p }

/-- `rx_parse(raw)`: the first 2048 bytes, decoded and verified; `none` is `NONE` (41_codec R164). -/
def rxParse (raw : Bytes) : Option Parsed :=
  (decodeFrame (raw.take rxbufBytes)).map fun hp => parsedOf hp.1 hp.2

/-- A valid frame of type `t`, its sequence number (46_host_control R322, "valid `T`"). -/
def validSeq (t : Word) (r : Option Parsed) : Option Word :=
  match r with
  | none => none
  | some f => if f.ok && f.hdr.type == t then some f.hdr.seq else none

/-- `START_F` (30_encoding R115). -/
def startF : Bytes := encodeFrame typeStart 0 []

/-- `END_F(e)` (30_encoding R115). -/
def endF (e : Word) : Bytes := encodeFrame typeEnd e []

/-- A DATA frame with its payload given (30_encoding R115). -/
def dataFrame (q : Word) (p : Bytes) : Bytes := encodeFrame typeData q p

/-- `ACK_F(a)` (30_encoding R115). -/
def ackF (a : Word) : Bytes := encodeFrame typeAck a []

end Sys2Proof.Machine
end

