-- ==== Sys2Proof/Syntax.lean ====
section
/-! DEFINITION. The syntax of the block: the events that reach it (`Input`), what stands on a wire
(`Wire`), and one constructor of `Instr` for every row of spec/opcode_table.json. -/

namespace Sys2Proof

/-- An input event (00_scope R16, 70_reset R370). A register access moves a u32 and a buffer access a u8
(20_memory R89); the four kinds of 30_encoding R118 are the two ports with and without `write`. -/
inductive Input where
  /-- `REG_RD` (kind 0) or `REG_WR` (kind 1) of a register index. -/
  | reg (write : Bool) (index : BitVec 8) (data : Word)
  /-- `BUF_RD` (kind 2) or `BUF_WR` (kind 3) of a buffer code and byte offset. -/
  | buf (write : Bool) (code : BitVec 2) (offset : Word) (data : Byte)
  /-- A frame arrives at the RX port, of any length (20_memory R88). -/
  | rx (raw : Bytes)
  /-- One strobe on the tick input (46_host_control R319). -/
  | tick
  /-- The hardware reset input is asserted (70_reset R370). -/
  | reset
deriving DecidableEq, Repr

/-- What the decoder reads: an input event, or a frame on the TX port. -/
inductive Wire where
  | input (e : Input)
  | tx (frame : Bytes)
deriving DecidableEq, Repr

/-- A received frame whose type the instruction names: the other header fields and the payload `decode`
extracted (41_codec R162). -/
structure RxFrame where
  seq     : Word
  length  : Word
  csum    : Word
  payload : Bytes
deriving DecidableEq, Repr

/-- A received frame no other RX row names: a type of 4 or more (30_encoding R112), or a frame too short
to have a header (41_codec R162, `NO_HEADER`; log 10). -/
inductive RxOther where
  | typed (type : Word) (f : RxFrame)
  | noHeader (raw : Bytes)
deriving DecidableEq, Repr

/-- The rows of spec/opcode_table.json, in its order. -/
inductive Instr where
  /-- `NOP`, 46_host_control R310. -/
  | nop
  /-- `RUN`, 46_host_control R312. -/
  | run
  /-- `SOFT_RESET`, 46_host_control R314. -/
  | softReset
  /-- `ERR_CLR`, 46_host_control R315. -/
  | errClr
  /-- `CSUM`, 40_checksum R146. -/
  | csum
  /-- `ENCODE`, 41_codec R165. -/
  | encode
  /-- `DECODE`, 41_codec R166. -/
  | decode
  /-- `VERIFY`, 41_codec R167. -/
  | verify
  /-- A reserved opcode written to CMD, 46_host_control R311. -/
  | badCmd (op : BitVec 8)
  /-- `REG_RD`, 46_host_control R316. -/
  | regRd (index : BitVec 8)
  /-- `REG_WR`, 46_host_control R317. -/
  | regWr (index : BitVec 8) (data : Word)
  /-- `BUF_RD`, 46_host_control R318. -/
  | bufRd (code : BitVec 2) (offset : Word)
  /-- `BUF_WR`, 46_host_control R318. -/
  | bufWr (code : BitVec 2) (offset : Word) (data : Byte)
  /-- A frame of type START arrives, 42_handshake R203, R204. -/
  | rxStart (f : RxFrame)
  /-- A frame of type END arrives, 42_handshake R201, R202. -/
  | rxEnd (f : RxFrame)
  /-- A frame of type DATA arrives, 45_receiver_reorder R280. -/
  | rxData (f : RxFrame)
  /-- A frame of type ACK arrives, 42_handshake R193, R196, 43 R223, 44 R254. -/
  | rxAck (f : RxFrame)
  /-- A frame of a reserved type or without a header arrives, 46_host_control R322. -/
  | rxReserved (f : RxOther)
  /-- The block emits `START_F`, 30_encoding R115. -/
  | txStart
  /-- The block emits `END_F(e)`, 30_encoding R115. -/
  | txEnd (e : Word)
  /-- The block emits a DATA frame `encode(2, q, p)`, 30_encoding R115. -/
  | txData (q : Word) (p : Bytes)
  /-- The block emits `ACK_F(a)`, 30_encoding R115. -/
  | txAck (a : Word)
  /-- `TICK`, 46_host_control R320. -/
  | tick
  /-- `RESET`, 70_reset R370. -/
  | reset
deriving DecidableEq, Repr

end Sys2Proof
end

