-- ==== Sys2Proof/WellFormed.lean ====
section
/-! DEFINITION. Which instructions have an encoding: the checks on operands that the spec's encodings
imply (30_encoding R112 to R118). -/

namespace Sys2Proof

/-- The command opcodes of 30_encoding R117. -/
abbrev cmdOpcodes : List (BitVec 8) := [0x00, 0x01, 0x02, 0x03, 0x10, 0x11, 0x12, 0x13]

/-- The register index of CMD (10_state R31). -/
abbrev cmdIndex : BitVec 8 := 0x07

/-- A payload `decode` can extract: no longer than the length field says (41_codec R162) and than the
receive buffer holds (20_memory R88). -/
abbrev RxFrame.WellFormed (f : RxFrame) : Prop :=
  f.payload.length ≤ f.length.toNat ∧ f.payload.length ≤ maxRxPayload

/-- A typed frame has a reserved type (30_encoding R112); a frame with no header is shorter than one. -/
def RxOther.wellFormed : RxOther → Bool
  | .typed type f => decide (4 ≤ type.toNat ∧ f.WellFormed)
  | .noHeader raw => decide (raw.length < hdrBytes)

/-- The instruction's operands have an encoding. A register write to CMD is a command's encoding, not
`regWr`'s (log 12). -/
def WellFormed : Instr → Bool
  | .badCmd op => decide (op ∉ cmdOpcodes)
  | .regWr index _ => decide (index ≠ cmdIndex)
  | .rxStart f => decide f.WellFormed
  | .rxEnd f => decide f.WellFormed
  | .rxData f => decide f.WellFormed
  | .rxAck f => decide f.WellFormed
  | .rxReserved f => f.wellFormed
  | .txData _ p => decide (p.length ≤ maxPayload)
  | .nop | .run | .softReset | .errClr | .csum | .encode | .decode | .verify
  | .regRd _ | .bufRd _ _ | .bufWr _ _ _ | .txStart | .txEnd _ | .txAck _ | .tick | .reset => true

end Sys2Proof
end

