-- ==== Sys2Proof/Decode.lean ====
section
/-! DEFINITION. The decoder, from what stands on a wire to an instruction, and the encoder back
(spec 30_encoding). Every input event is an instruction (30_encoding R120: "no encoding is unpredictable");
a frame on the TX port is refused by name unless the block emits such a frame (30_encoding R112, R115). -/

namespace Sys2Proof

open Machine

/-- Why a frame is none the block emits. -/
inductive DecodeError where
  /-- Shorter than a header (41_codec R162). -/
  | noHeader
  /-- The length field is not the number of bytes that follow (41_codec R160). -/
  | length
  /-- More than `MAX_PAYLOAD` payload bytes (30_encoding R110). -/
  | tooLong
  /-- The checksum does not verify (41_codec R168). -/
  | checksum
  /-- A control frame with a payload (30_encoding R112). -/
  | controlPayload
  /-- A START with a sequence number other than 0 (30_encoding R112). -/
  | startSeq
  /-- A reserved type (30_encoding R112, "never sent"). -/
  | reservedType
deriving DecidableEq, Repr

/-- The command an opcode byte names; any byte out of the table is a reserved opcode (30_encoding R117,
46_host_control R311). -/
def decodeOpcode (op : BitVec 8) : Instr :=
  if op = 0x00 then .nop
  else if op = 0x01 then .run
  else if op = 0x02 then .softReset
  else if op = 0x03 then .errClr
  else if op = 0x10 then .csum
  else if op = 0x11 then .encode
  else if op = 0x12 then .decode
  else if op = 0x13 then .verify
  else .badCmd op

/-- The command word: bits 7:0 are the opcode, bits 31:8 are ignored (30_encoding R116, R119). -/
def decodeCommand (v : Word) : Instr := decodeOpcode (v.setWidth 8)

/-- The instruction a header type selects (30_encoding R112). -/
def decodeRxType (h : Header) (p : Bytes) : Instr :=
  let f : RxFrame := { seq := h.seq, length := h.length, csum := h.csum, payload := p }
  if h.type = typeStart then .rxStart f
  else if h.type = typeEnd then .rxEnd f
  else if h.type = typeData then .rxData f
  else if h.type = typeAck then .rxAck f
  else .rxReserved (.typed h.type f)

/-- A frame at the RX port: its first 2048 bytes, read as 41_codec R162 says (20_memory R88). -/
def decodeRx (raw : Bytes) : Instr :=
  match decodeFrame (raw.take rxbufBytes) with
  | none => .rxReserved (.noHeader raw)
  | some (h, p) => decodeRxType h p

/-- Every input event is one instruction. -/
def decodeInput : Input → Instr
  | .reg false index _ => .regRd index
  | .reg true index data => if index = cmdIndex then decodeCommand data else .regWr index data
  | .buf false code offset _ => .bufRd code offset
  | .buf true code offset data => .bufWr code offset data
  | .rx raw => decodeRx raw
  | .tick => .tick
  | .reset => .reset

/-- A frame at the TX port: one of the four of 30_encoding R115, or refused by name. -/
def decodeTx (frame : Bytes) : Except DecodeError Instr :=
  match decodeFrame frame with
  | none => .error .noHeader
  | some (h, p) =>
    if h.length.toNat ≠ frame.length - hdrBytes then .error .length
    else if p.length > maxPayload then .error .tooLong
    else if verifyFrame h p = false then .error .checksum
    else if h.type = typeData then .ok (.txData h.seq p)
    else if 4 ≤ h.type.toNat then .error .reservedType
    else if p ≠ [] then .error .controlPayload
    else if h.type = typeStart then (if h.seq = 0 then .ok .txStart else .error .startSeq)
    else if h.type = typeEnd then .ok (.txEnd h.seq)
    else .ok (.txAck h.seq)

/-- The decoder, total on what stands on a wire. -/
def decode : Wire → Except DecodeError Instr
  | .input e => .ok (decodeInput e)
  | .tx frame => decodeTx frame

/-- The bytes of a received frame whose type is `t`. -/
def rxBytes (t : Word) (f : RxFrame) : Bytes :=
  headerBytes { type := t, seq := f.seq, length := f.length, csum := f.csum } ++ f.payload

/-- A command's word on the wire: a REG_WR to CMD (30_encoding R116, R118). -/
def commandWire (op : BitVec 8) : Wire := .input (.reg true cmdIndex (op.setWidth 32))

/-- The encoder: what stands on the wire for an instruction, from the tables of 30_encoding. -/
def encode : Instr → Wire
  | .nop => commandWire 0x00
  | .run => commandWire 0x01
  | .softReset => commandWire 0x02
  | .errClr => commandWire 0x03
  | .csum => commandWire 0x10
  | .encode => commandWire 0x11
  | .decode => commandWire 0x12
  | .verify => commandWire 0x13
  | .badCmd op => commandWire op
  | .regRd index => .input (.reg false index 0)
  | .regWr index data => .input (.reg true index data)
  | .bufRd code offset => .input (.buf false code offset 0)
  | .bufWr code offset data => .input (.buf true code offset data)
  | .rxStart f => .input (.rx (rxBytes typeStart f))
  | .rxEnd f => .input (.rx (rxBytes typeEnd f))
  | .rxData f => .input (.rx (rxBytes typeData f))
  | .rxAck f => .input (.rx (rxBytes typeAck f))
  | .rxReserved (.typed t f) => .input (.rx (rxBytes t f))
  | .rxReserved (.noHeader raw) => .input (.rx raw)
  | .txStart => .tx startF
  | .txEnd e => .tx (endF e)
  | .txData q p => .tx (dataFrame q p)
  | .txAck a => .tx (ackF a)
  | .tick => .input .tick
  | .reset => .input .reset

/-- The host transaction (kind, target, offset, data) of 30_encoding R118 as an event; `none` where the
fields are outside the table (a buffer code above 3, a buffer datum above a byte). -/
def hostTransaction (kind : BitVec 2) (target : BitVec 8) (offset data : Word) : Option Input :=
  if kind = 0 then some (.reg false target data)
  else if kind = 1 then some (.reg true target data)
  else if target.toNat < 4 ∧ data.toNat < 256 then
    some (.buf (kind == 3) (target.setWidth 2) offset (data.setWidth 8))
  else none

/-- The 16 bytes of a frame whose 32-bit header words, first word first, are the words of `w`. -/
def tableFrame (w : Nat) : Bytes :=
  be32 (BitVec.ofNat 32 w) ++ be32 (BitVec.ofNat 32 (w / 2 ^ 32)) ++
    be32 (BitVec.ofNat 32 (w / 2 ^ 64)) ++ be32 (BitVec.ofNat 32 (w / 2 ^ 96))

/-- The event a word of spec/opcode_table.json stands for (log 2). A row of one byte is a command word; of
fewer bits, a host transaction's kind with every other field 0; of none, a TICK; a longer row is a frame at
the RX port, its type field first. -/
def tableInput (nbits w : Nat) : Input :=
  if nbits = 0 then .tick
  else if nbits < 8 then
    (hostTransaction (BitVec.ofNat 2 w) 0 0 0).getD (.reg false 0 0)
  else if nbits < 32 then .reg true cmdIndex (BitVec.ofNat 32 w)
  else .rx (tableFrame w)

/-- The instruction the decoder reads from a word of the opcode table. -/
def decodeTableWord (nbits w : Nat) : Option Instr := some (decodeInput (tableInput nbits w))

end Sys2Proof
end

