-- ==== Sys2Proof/Config.lean ====
section
/-! DEFINITION. What an implementation fixes and the spec leaves OPEN (00_scope R10): the three build
parameters, in the legal range R10 gives, which `State.build` carries (log 5), and the value past 32 bits,
which no rule states (logs 8, 9). All are made from constants with no body, so that no proof can see them. -/

namespace Sys2Proof

/-- The OPEN build parameters, "each a model argument with the stated legal range" (00_scope R10). -/
structure Build where
  /-- `W_MAX`: the largest legal WINDOW. -/
  wMax   : Nat
  /-- `IN_CAP`: the size of INBUF in bytes. -/
  inCap  : Nat
  /-- `OUT_CAP`: the size of OUTBUF in bytes. -/
  outCap : Nat
deriving DecidableEq, Repr

/-- The legal ranges of R10: `W_MAX ≥ 1`, `IN_CAP ≤ 2^32 − 2`. -/
abbrev Build.Legal (b : Build) : Prop := 1 ≤ b.wMax ∧ b.inCap ≤ 0xFFFFFFFE

/-- DESIGN CHOICE, safe (log 5): `W_MAX` less one, any natural number. -/
opaque Config.wMaxLessOne : Nat

/-- DESIGN CHOICE, safe (log 5): `IN_CAP`, any number from 0 to 2^32 − 2. -/
opaque Config.inCap : Fin 0xFFFFFFFF

/-- DESIGN CHOICE, safe (log 5): `OUT_CAP`, any natural number. -/
opaque Config.outCap : Nat

/-- DESIGN CHOICE, safe (logs 8, 9): what a 32-bit field holds after a count of 2^32 or more is written to
it. The spec states no such value (00_scope R14), so it is free. -/
opaque Config.beyond32 : Nat → BitVec 32

/-- The build parameters of this block: legal by construction, otherwise unknown. -/
def Config.build : Build :=
  { wMax := Config.wMaxLessOne + 1, inCap := Config.inCap.val, outCap := Config.outCap }

end Sys2Proof
end

