-- ==== Sys2Proof/Machine/State.lean ====
section
/-! DEFINITION. The state of one instance of the block (spec 10_state), as plain data, its reset value, and
the reasons a step can stop. -/

namespace Sys2Proof.Machine

/-- `CTRL.ROLE` (10_state R33). -/
inductive Role where
  | sender | receiver
deriving DecidableEq, Repr

/-- `CTRL.MODE` (10_state R33). -/
inductive Mode where
  | cumulative | selective
deriving DecidableEq, Repr

/-- `s.hs`, the handshake state; the codes 5 to 7 never occur (42_handshake R190). -/
inductive Hs where
  | idle | establishing | established | closing | closed
deriving DecidableEq, Repr

/-- The error and fault codes (60_exceptions R340); 7 to 15 are never raised. -/
inductive ErrCode where
  | none | badCmd | badConfig | outOverflow | badLen | busy | faulted
deriving DecidableEq, Repr

/-- The locked configuration registers (10_state R33 to R38). -/
structure Cfg where
  role        : Role
  mode        : Mode
  verifyStart : Bool
  window      : Word
  chunk       : Word
  rto         : Word
  poll        : Word
  inLen       : Word
deriving DecidableEq, Repr

/-- `IRQ_EN` (10_state R42). -/
structure IrqEn where
  doneIe : Bool
  errIe  : Bool
deriving DecidableEq, Repr

/-- One entry of the selective sender's tables: `s.acked(q)`, `s.sent(q)`, `s.timer(q)` (10_state R52). -/
structure Slot where
  acked : Bool
  sent  : Bool
  timer : Word
deriving DecidableEq, Repr

/-- What SOFT_RESET clears: the handshake state, the flags, the error record, and the engine state of both
roles (10_state R50 to R54, 70_reset R372). -/
structure Engine where
  hs        : Hs
  running   : Bool
  done      : Bool
  fault     : Bool
  err       : ErrCode
  errInfo   : Word
  total     : Word
  base      : Word
  nextAck   : Word
  sentHi    : Word
  endSeq    : Word
  waitStart : Word
  pollStart : Word
  /-- The tables of R52: sequence numbers strictly rising, no entry equal to (false, false, 0). -/
  slots     : List (Nat × Slot)
  expected  : Word
  /-- The ReorderBuffer (R54): keys strictly rising. -/
  rbuf      : List (Nat × Bytes)
  outLen    : Word
deriving DecidableEq, Repr

/-- The codec diagnostic registers (10_state R46). -/
structure CodecRegs where
  fType      : Word
  fSeq       : Word
  fLen       : Word
  fCsum      : Word
  fFlen      : Word
  fPlen      : Word
  fValid     : Bool
  csumResult : Half
deriving DecidableEq, Repr

/-- One byte buffer: (offset, byte) pairs in the canonical form `Memory.wf`. -/
abbrev Memory := List Host.Cell

/-- One instance of the block. -/
structure State where
  /-- The build parameters (00_scope R10; log 5). No step changes them. -/
  build  : Build
  cfg    : Cfg
  irqEn  : IrqEn
  /-- `s.now` (10_state R43). -/
  now    : Word
  eng    : Engine
  codec  : CodecRegs
  inbuf  : Memory
  outbuf : Memory
  fbuf   : Memory
  /-- The TX port's output sequence, oldest first (20_memory R88; log 4). -/
  tx     : List Bytes
  /-- The value the last host read returned (log 3). -/
  rdata  : Word
  /-- The events not yet taken, oldest first (00_scope R16; log 1). -/
  inputs : List Input
deriving DecidableEq, Repr

/-- A step stops with a fault: never. Every event of the spec has a next state (93_implementation_defined,
"Nothing in the spec is unpredictable or undefined"); the engine fault of 60_exceptions R343 is a recorded
next state. Having no constructor is safe only because the spec stops nowhere. -/
inductive Fault where
deriving DecidableEq, Repr

/-- A step has no meaning for an instruction. -/
inductive Refusal where
  /-- An instruction the model has not reached: raised by `exec`'s own arms, by none in this model. Safe. -/
  | notModelled (mnemonic : String)
deriving DecidableEq, Repr

/-- The engine after reset or SOFT_RESET (10_state R56, 46_host_control R314). -/
def Engine.reset : Engine :=
  { hs := .idle, running := false, done := false, fault := false, err := .none, errInfo := 0,
    total := 0, base := 0, nextAck := 0, sentHi := 0, endSeq := 0, waitStart := 0, pollStart := 0,
    slots := [], expected := 0, rbuf := [], outLen := 0 }

/-- The configuration after reset (10_state R56). -/
def Cfg.reset : Cfg :=
  { role := .sender, mode := .cumulative, verifyStart := false,
    window := 1, chunk := 1456, rto := 500, poll := 50, inLen := 0 }

/-- The codec registers after reset (10_state R56). -/
def CodecRegs.reset : CodecRegs :=
  { fType := 0, fSeq := 0, fLen := 0, fCsum := 0, fFlen := 0, fPlen := 0, fValid := false, csumResult := 0 }

/-- The block right after hardware reset (10_state R56). DESIGN CHOICE (logs 1, 3, 5): the model's own
fields `inputs`, `rdata` and `build`. -/
def State.reset : State :=
  { build := Config.build, cfg := Cfg.reset, irqEn := { doneIe := false, errIe := false }, now := 0,
    eng := Engine.reset, codec := CodecRegs.reset, inbuf := [], outbuf := [], fbuf := [],
    tx := [], rdata := 0, inputs := [] }

end Sys2Proof.Machine
end

