-- ==== Sys2Proof/Machine/Store.lean ====
section
/-! DEFINITION. Sparse storage: finite maps as lists of pairs whose keys rise strictly, and the two things
built on them, byte buffers (an unlisted byte reads 0) and the selective sender's tables (an unlisted entry
reads (false, false, 0)). -/

namespace Sys2Proof.Machine

/-- The value stored under a key. -/
def Store.find? {α : Type} : List (Nat × α) → Nat → Option α
  | [], _ => none
  | (k', v) :: rest, k => if k' = k then some v else Store.find? rest k

/-- Store a value under a key, in place of any it has. -/
def Store.insert {α : Type} : List (Nat × α) → Nat → α → List (Nat × α)
  | [], k, v => [(k, v)]
  | (k', v') :: rest, k, v =>
    if k < k' then (k, v) :: (k', v') :: rest
    else if k = k' then (k, v) :: rest
    else (k', v') :: Store.insert rest k v

/-- Remove a key. -/
def Store.erase {α : Type} (m : List (Nat × α)) (k : Nat) : List (Nat × α) :=
  m.filter fun e => e.1 != k

/-- The canonical order: keys strictly rising. -/
abbrev Store.Sorted {α : Type} (m : List (Nat × α)) : Prop := (m.map Prod.fst).Pairwise (· < ·)

/-- A byte of a buffer; reset contents are 0 (10_state R56). -/
def Memory.read (m : Memory) (a : Nat) : Byte := (Store.find? m a).getD 0

/-- Store a byte of a buffer, keeping the canonical form: a zero byte is not listed. -/
def Memory.write (m : Memory) (a : Nat) (v : Byte) : Memory :=
  if v = 0 then Store.erase m a else Store.insert m a v

/-- The canonical form of a buffer: offsets strictly rising, no zero byte listed. -/
abbrev Memory.wf (m : Memory) : Prop := Store.Sorted m ∧ ∀ c ∈ m, c.2 ≠ 0

/-- `MemRead(buf, off, n)` (00_scope R15). -/
def Memory.readBytes (m : Memory) (off : Nat) : Nat → Bytes
  | 0 => []
  | n + 1 => m.read off :: Memory.readBytes m (off + 1) n

/-- `MemWrite(buf, off, len(b), b)` (00_scope R15). -/
def Memory.writeBytes (m : Memory) (off : Nat) : Bytes → Memory
  | [] => m
  | b :: rest => Memory.writeBytes (m.write off b) (off + 1) rest

/-- A table entry never written, or cleared (10_state R52). -/
def Slot.empty : Slot := { acked := false, sent := false, timer := 0 }

/-- `(s.acked(q), s.sent(q), s.timer(q))` (10_state R52). -/
def Slots.read (m : List (Nat × Slot)) (q : Nat) : Slot := (Store.find? m q).getD Slot.empty

/-- Store a table entry; a cleared entry is not listed. -/
def Slots.write (m : List (Nat × Slot)) (q : Nat) (v : Slot) : List (Nat × Slot) :=
  if v = Slot.empty then Store.erase m q else Store.insert m q v

end Sys2Proof.Machine
end

