-- ==== Sys2Proof/Machine/Ops.lean ====
section
/-! DEFINITION. The shared operations: the error record and the engine fault, which are all the exception
entry the block has (spec 60_exceptions R342, R343, R346), the return from them (R347), emission
(20_memory R88), and taking the next event (00_scope R16). -/

namespace Sys2Proof.Machine

/-- `raise Error(code, info)`: the record, and nothing else (60_exceptions R342). -/
def raiseError (code : ErrCode) (info : Word) (s : State) : State :=
  { s with eng := { s.eng with err := code, errInfo := info } }

/-- `fault(code, info)`: the record, FAULT set, RUNNING cleared; the event ends (60_exceptions R343). -/
def engineFault (code : ErrCode) (info : Word) (s : State) : State :=
  { s with eng := { s.eng with err := code, errInfo := info, fault := true, running := false } }

/-- Clearing the error record, the return of 60_exceptions R347 (46_host_control R315). FAULT stays. -/
def clearError (s : State) : State :=
  { s with eng := { s.eng with err := .none, errInfo := 0 } }

/-- `emit(f)` (20_memory R88). -/
def emit (f : Bytes) (s : State) : State := { s with tx := s.tx ++ [f] }

/-- `a −₃₂ b`, ticks (00_scope R14). -/
def ticksSince (now start : Word) : Nat := (now - start).toNat

/-- `a + n` stored in a 32-bit field: exact below 2^32 (00_scope R14), a free value from there on
(logs 8, 9). -/
def addWord (a : Word) (n : Nat) : Word :=
  if a.toNat + n < 2 ^ 32 then a + BitVec.ofNat 32 n else Config.beyond32 (a.toNat + n)

/-- `ORIGIN(mode)` (00_scope R11). -/
def origin : Mode → Word
  | .cumulative => 1
  | .selective => 0

/-- `START_ACK` (42_handshake R191). -/
def startAck : Mode → Word
  | .cumulative => 1
  | .selective => 0

/-- The connection reached CLOSED (42_handshake R196, R201). -/
def closeConnection (s : State) : State :=
  { s with eng := { s.eng with hs := .closed, running := false, done := true } }

/-- The next event and the block without it (00_scope R16). -/
def takeInput (s : State) : Option (Input × State) :=
  match s.inputs with
  | [] => none
  | e :: rest => some (e, { s with inputs := rest })

end Sys2Proof.Machine
end

