-- ==== Sys2Proof/Machine/Flags.lean ====
section
/-! DEFINITION. The status flags the host sees: the codes of STATUS's fields, the STATUS word, and the
interrupt output (spec 10_state R40, R50; 46_host_control R316; 60_exceptions R350). The block has no
arithmetic condition codes. -/

namespace Sys2Proof.Machine

/-- A flag as bit 0 of a register. -/
def flagWord (b : Bool) : Word := (BitVec.ofBool b).setWidth 32

/-- The code of a role (10_state R33). -/
def Role.code : Role → Bool
  | .sender => false
  | .receiver => true

/-- The role a code names (10_state R33). -/
def Role.ofCode : Bool → Role
  | false => .sender
  | true => .receiver

/-- The code of a mode (10_state R33). -/
def Mode.code : Mode → Bool
  | .cumulative => false
  | .selective => true

/-- The mode a code names (10_state R33). -/
def Mode.ofCode : Bool → Mode
  | false => .cumulative
  | true => .selective

/-- The code of a handshake state (42_handshake R190). -/
def Hs.code : Hs → Word
  | .idle => 0
  | .establishing => 1
  | .established => 2
  | .closing => 3
  | .closed => 4

/-- The code of an error (60_exceptions R340). -/
def ErrCode.code : ErrCode → Word
  | .none => 0
  | .badCmd => 1
  | .badConfig => 2
  | .outOverflow => 3
  | .badLen => 4
  | .busy => 5
  | .faulted => 6

/-- The STATUS word (10_state R40, 46_host_control R316). -/
def statusWord (e : Engine) : Word :=
  e.hs.code ||| (flagWord e.running <<< 3) ||| (flagWord e.done <<< 4) ||| (flagWord e.fault <<< 5) |||
    (e.err.code <<< 8)

/-- The CTRL word (46_host_control R316). -/
def ctrlWord (c : Cfg) : Word :=
  flagWord c.role.code ||| (flagWord c.mode.code <<< 1) ||| (flagWord c.verifyStart <<< 2)

/-- The IRQ_EN word (46_host_control R316). -/
def irqEnWord (i : IrqEn) : Word := flagWord i.doneIe ||| (flagWord i.errIe <<< 1)

/-- The interrupt output (60_exceptions R350), a function of the state at every moment (log 14). -/
def State.irq (s : State) : Bool :=
  (s.eng.done && s.irqEn.doneIe) || ((s.eng.err != .none) && s.irqEn.errIe)

end Sys2Proof.Machine
end

