-- ==== Sys2Proof/Machine/Operands.lean ====
section
/-! DEFINITION. The operand forms: host registers by index (spec 10_state R31, 46_host_control R316, R317),
host buffers by code and offset (20_memory R80, R81), the length operands of the codec commands, and the
DATA payload load (20_memory R95). -/

namespace Sys2Proof.Machine

/-- The identification constant (10_state R32). -/
abbrev idConstant : Word := 0x52545031

/-- `REG_RD(i)`: the value register `i` reads as; reserved indexes and CMD read 0 (46_host_control R316,
10_state R49). -/
def readReg (s : State) (i : BitVec 8) : Word :=
  match i.toNat with
  | 0x00 => idConstant
  | 0x01 => ctrlWord s.cfg
  | 0x02 => s.cfg.window
  | 0x03 => s.cfg.chunk
  | 0x04 => s.cfg.rto
  | 0x05 => s.cfg.poll
  | 0x06 => s.cfg.inLen
  | 0x08 => statusWord s.eng
  | 0x09 => s.eng.errInfo
  | 0x0A => irqEnWord s.irqEn
  | 0x0B => s.now
  | 0x0C => s.eng.outLen
  | 0x0D => s.eng.expected
  | 0x0E => s.eng.base
  | 0x0F => s.eng.total
  | 0x10 => s.eng.nextAck
  | 0x11 => s.eng.sentHi
  | 0x12 => BitVec.ofNat 32 s.eng.rbuf.length
  | 0x13 => s.eng.endSeq
  | 0x14 => s.codec.fType
  | 0x15 => s.codec.fSeq
  | 0x16 => s.codec.fLen
  | 0x17 => s.codec.fCsum
  | 0x18 => s.codec.fFlen
  | 0x19 => s.codec.fPlen
  | 0x1A => flagWord s.codec.fValid
  | 0x1B => s.codec.csumResult.setWidth 32
  | _ => 0

/-- A write to the configuration, which the lock drops while a connection runs (10_state R48). -/
def writeCfg (s : State) (c : Cfg) : State := if s.eng.running then s else { s with cfg := c }

/-- `REG_WR(i, v)` for every register but CMD: read-only, locked and reserved ones drop the write
(46_host_control R317, 10_state R49). -/
def writeReg (s : State) (i : BitVec 8) (v : Word) : State :=
  match i.toNat with
  | 0x01 => writeCfg s { s.cfg with
      role := Role.ofCode (v.getLsbD 0), mode := Mode.ofCode (v.getLsbD 1), verifyStart := v.getLsbD 2 }
  | 0x02 => writeCfg s { s.cfg with window := v }
  | 0x03 => writeCfg s { s.cfg with chunk := v }
  | 0x04 => writeCfg s { s.cfg with rto := v }
  | 0x05 => writeCfg s { s.cfg with poll := v }
  | 0x06 => writeCfg s { s.cfg with inLen := v }
  | 0x0A => { s with irqEn := { doneIe := v.getLsbD 0, errIe := v.getLsbD 1 } }
  | 0x14 => { s with codec := { s.codec with fType := v } }
  | 0x15 => { s with codec := { s.codec with fSeq := v } }
  | 0x16 => { s with codec := { s.codec with fLen := v } }
  | 0x17 => { s with codec := { s.codec with fCsum := v } }
  | 0x18 => { s with codec := { s.codec with fFlen := v } }
  | _ => s

/-- `buf_read(B, off)`: 0 past the buffer's size, past OUT_LEN for OUTBUF, and for buffer code 3
(20_memory R81, 30_encoding R118). -/
def readBuf (s : State) (code : BitVec 2) (off : Nat) : Byte :=
  match code.toNat with
  | 0 => if off < s.build.inCap then s.inbuf.read off else 0
  | 1 => if off < s.build.outCap ∧ off < s.eng.outLen.toNat then s.outbuf.read off else 0
  | 2 => if off < fbufBytes then s.fbuf.read off else 0
  | _ => 0

/-- `buf_write(B, off, v)`: INBUF while not running, FBUF always, OUTBUF and buffer code 3 never; no effect
past the buffer's size (20_memory R81, 46_host_control R318). -/
def writeBuf (s : State) (code : BitVec 2) (off : Nat) (v : Byte) : State :=
  match code.toNat with
  | 0 => if off < s.build.inCap ∧ s.eng.running = false then { s with inbuf := s.inbuf.write off v } else s
  | 2 => if off < fbufBytes then { s with fbuf := s.fbuf.write off v } else s
  | _ => s

/-- The frame operand of DECODE and VERIFY, `FBUF[0..F_FLEN)`: refused outside 16 to 2048 bytes
(41_codec R166, R167). The header always decodes then. -/
def fbufFrame (s : State) : Option (Header × Bytes) :=
  if s.codec.fFlen.toNat > fbufBytes ∨ s.codec.fFlen.toNat < hdrBytes then none
  else decodeFrame (s.fbuf.readBytes 0 s.codec.fFlen.toNat)

/-- `chunk(q)`: the payload of DATA packet `q` (20_memory R95). -/
def chunkOf (s : State) (q : Nat) : Bytes :=
  let off := (q - (origin s.cfg.mode).toNat) * s.cfg.chunk.toNat
  s.inbuf.readBytes off (min s.cfg.chunk.toNat (s.cfg.inLen.toNat - off))

/-- `DATA_F(q)` (30_encoding R115). -/
def dataF (s : State) (q : Nat) : Bytes := dataFrame (BitVec.ofNat 32 q) (chunkOf s q)

/-- `wend = min(s.base + W, E)`, exclusive, exact (43 R221, 44 R250). -/
def windowEnd (s : State) : Nat :=
  min (s.eng.base.toNat + s.cfg.window.toNat) s.eng.endSeq.toNat

end Sys2Proof.Machine
end

