-- ==== Sys2Proof/Machine/Handshake.lean ====
section
/-! DEFINITION. The connection-handshake controller's shared transitions (spec 42_handshake). -/

namespace Sys2Proof.Machine

/-- Sender open (R192). -/
def senderOpen (s : State) : State :=
  let s := emit startF { s with eng := { s.eng with hs := .establishing } }
  { s with eng := { s.eng with waitStart := s.now } }

/-- Receiver open: listening (R200). -/
def receiverOpen (s : State) : State :=
  { s with eng := { s.eng with hs := .idle, expected := origin s.cfg.mode, rbuf := [], outLen := 0 } }

/-- Sender close entry (R195). -/
def closeEntry (s : State) : State :=
  let s := emit (endF s.eng.endSeq) { s with eng := { s.eng with hs := .closing } }
  { s with eng := { s.eng with waitStart := s.now } }

/-- Sender START retry, on a TICK (R194). -/
def startRetry (s : State) : State :=
  if ticksSince s.now s.eng.waitStart ≥ s.cfg.rto.toNat then
    let s := emit startF s
    { s with eng := { s.eng with waitStart := s.now } }
  else s

/-- Sender END retry, on a TICK (R197). -/
def endRetry (s : State) : State :=
  if ticksSince s.now s.eng.waitStart ≥ s.cfg.rto.toNat then
    let s := emit (endF s.eng.endSeq) s
    { s with eng := { s.eng with waitStart := s.now } }
  else s

/-- Sender END-ACK: only the END's own number closes (R196). -/
def endAck (a : Word) (s : State) : State := if a = s.eng.endSeq then closeConnection s else s

/-- START acceptance: the checksum matters only with VERIFY_START (R205). -/
def startAccepted (s : State) (r : Option Parsed) : Bool :=
  match r with
  | none => false
  | some f => f.hdr.type == typeStart && (f.ok || !s.cfg.verifyStart)

/-- Receiver START while listening (R203). -/
def receiverListen (r : Option Parsed) (s : State) : State :=
  if startAccepted s r then
    let s := emit (ackF (startAck s.cfg.mode)) s
    { s with eng := { s.eng with hs := .established } }
  else s

/-- Receiver duplicate START (R204). -/
def receiverDuplicateStart (s : State) : State := emit (ackF (startAck s.cfg.mode)) s

/-- Receiver END: the matching one closes (R201), any other is answered with the expected number (R202). -/
def receiverEnd (e : Word) (s : State) : State :=
  if e = s.eng.expected then closeConnection (emit (ackF e) s)
  else emit (ackF s.eng.expected) s

end Sys2Proof.Machine
end

