-- ==== Sys2Proof/Machine/Receiver.lean ====
section
/-! DEFINITION. The ARQ receiver reorder engine (spec 45_receiver_reorder). An operation that can meet the
engine fault answers `.error s'` where the event ends there (60_exceptions R343). -/

namespace Sys2Proof.Machine

/-- Delivery of one payload (R281). EXPECTED wraps; OUT_LEN past 2^32 − 1 is log 9. -/
def deliver (q : Word) (p : Bytes) (s : State) : Except State State :=
  if s.eng.outLen.toNat + p.length > s.build.outCap then .error (engineFault .outOverflow q s)
  else .ok { s with
    outbuf := s.outbuf.writeBytes s.eng.outLen.toNat p
    eng := { s.eng with
      outLen := addWord s.eng.outLen p.length, expected := s.eng.expected + 1 } }

/-- `remove k from s.rbuf` (R282). -/
def removeBuffered (k : Nat) (s : State) : State :=
  { s with eng := { s.eng with rbuf := Store.erase s.eng.rbuf k } }

/-- The buffer as it was, with the packet that did not fit: where a drain ends in the engine fault `s`, that
packet "is neither written nor removed from `s.rbuf`" (60_exceptions R343; log 7). -/
def keepUnfit (rbuf : List (Nat × Bytes)) (s : State) : State :=
  { s with eng := { s.eng with rbuf := rbuf } }

/-- At most `fuel` turns of the drain (R282): remove the packet from the buffer, then deliver it. -/
def drainLoop : Nat → State → Except State State
  | 0, s => .ok s
  | fuel + 1, s =>
    match Store.find? s.eng.rbuf s.eng.expected.toNat with
    | none => .ok s
    | some p =>
      match deliver s.eng.expected p (removeBuffered s.eng.expected.toNat s) with
      | .error s' => .error (keepUnfit s.eng.rbuf s')
      | .ok s' => drainLoop fuel s'

/-- The drain: a turn removes an entry, so as many turns as entries are enough (R282). -/
def drain (s : State) : Except State State := drainLoop s.eng.rbuf.length s

/-- The four cases of a DATA number, tested before any update, with `expected + W` exact (R280). -/
inductive DataCase where
  | inOrder | ahead | behind | outOfWindow
deriving DecidableEq, Repr

/-- The classification of R280. -/
def dataCase (s : State) (q : Word) : DataCase :=
  if q = s.eng.expected then .inOrder
  else if q.toNat < s.eng.expected.toNat then .behind
  else if q.toNat < s.eng.expected.toNat + s.cfg.window.toNat then .ahead
  else .outOfWindow

/-- Case B: insert, never overwrite (R283). -/
def bufferAhead (q : Word) (p : Bytes) (s : State) : State :=
  match Store.find? s.eng.rbuf q.toNat with
  | some _ => s
  | none => { s with eng := { s.eng with rbuf := Store.insert s.eng.rbuf q.toNat p } }

/-- The ACK after cases A to D: cumulative mode ACKs the expected number (R286); selective mode ACKs the
number that arrived, and nothing for case D (R287 to R289). -/
def ackData (c : DataCase) (q : Word) (s : State) : State :=
  match s.cfg.mode, c with
  | .cumulative, _ => emit (ackF s.eng.expected) s
  | .selective, .outOfWindow => s
  | .selective, _ => emit (ackF q) s

/-- A valid DATA frame at an ESTABLISHED receiver (R280 to R289). -/
def receiveData (q : Word) (p : Bytes) (s : State) : State :=
  match dataCase s q with
  | .inOrder =>
    match (deliver q p s).bind drain with
    | .error s' => s'
    | .ok s' => ackData .inOrder q s'
  | .ahead => ackData .ahead q (bufferAhead q p s)
  | .behind => ackData .behind q s
  | .outOfWindow => ackData .outOfWindow q s

end Sys2Proof.Machine
end

