-- ==== Sys2Proof/Machine/SenderCumulative.lean ====
section
/-! DEFINITION. The ARQ sender window engine in cumulative mode, Go-Back-N (spec 43_sender_cumulative). -/

namespace Sys2Proof.Machine

/-- `ceil(IN_LEN / CHUNK)` (R220). -/
def packetCount (c : Cfg) : Nat := (c.inLen.toNat + c.chunk.toNat - 1) / c.chunk.toNat

/-- `for q in [lo, hi): emit(DATA_F(q))`, in increasing order (R222, R224, R225). -/
def emitData (lo hi : Nat) (s : State) : State :=
  { s with tx := s.tx ++ (List.range' lo (hi - lo)).map (dataF s) }

/-- Data-phase start (R222). -/
def cumulativeStart (s : State) : State :=
  let o := origin s.cfg.mode
  let s := { s with eng := { s.eng with base := o, nextAck := o + 1 } }
  if s.eng.base = s.eng.endSeq then closeEntry s
  else
    let w := windowEnd s
    let s := emitData s.eng.base.toNat w s
    { s with eng := { s.eng with sentHi := BitVec.ofNat 32 w, waitStart := s.now } }

/-- After an advance: only the packets never sent before, and the wait starts again (R224). -/
def cumulativeAdvance (s : State) : State :=
  if s.eng.base = s.eng.endSeq then closeEntry s
  else
    let w := windowEnd s
    let s := emitData s.eng.sentHi.toNat w s
    { s with eng := { s.eng with sentHi := BitVec.ofNat 32 (max s.eng.sentHi.toNat w), waitStart := s.now } }

/-- Cumulative ACK `a`: accepted from `next_ack` to the window's end (R223). NEXT_ACK past
2^32 − 1 is log 8. -/
def cumulativeAck (a : Word) (s : State) : State :=
  if s.eng.nextAck.toNat ≤ a.toNat ∧ a.toNat ≤ windowEnd s then
    cumulativeAdvance { s with eng := { s.eng with base := a, nextAck := addWord a 1 } }
  else s

/-- Window timeout, on a TICK: the whole window again (R225). -/
def cumulativeTimeout (s : State) : State :=
  if ticksSince s.now s.eng.waitStart ≥ s.cfg.rto.toNat then
    let s := emitData s.eng.base.toNat (windowEnd s) s
    { s with eng := { s.eng with waitStart := s.now } }
  else s

end Sys2Proof.Machine
end

