-- ==== Sys2Proof/Machine/SenderSelective.lean ====
section
/-! DEFINITION. The ARQ sender window engine in selective mode, Selective-Repeat
(spec 44_sender_selective). -/

namespace Sys2Proof.Machine

/-- The table entry of packet `q` (10_state R52). -/
def slotOf (s : State) (q : Nat) : Slot := Slots.read s.eng.slots q

/-- Store the table entry of packet `q`. -/
def setSlot (q : Nat) (v : Slot) (s : State) : State :=
  { s with eng := { s.eng with slots := Slots.write s.eng.slots q v } }

/-- Step (b), ACK marking: a valid ACK whose number is in the window (R252). -/
def selectiveMark (r : Option Parsed) (s : State) : State :=
  match validSeq typeAck r with
  | none => s
  | some a =>
    if s.eng.base.toNat ≤ a.toNat ∧ a.toNat < windowEnd s then
      setSlot a.toNat { slotOf s a.toNat with acked := true } s
    else s

/-- Step (c), at most `fuel` turns of the slide; a passed entry is cleared (R253). -/
def slideLoop : Nat → State → State
  | 0, s => s
  | fuel + 1, s =>
    if s.eng.base.toNat < s.eng.endSeq.toNat ∧ (slotOf s s.eng.base.toNat).acked = true then
      let s := setSlot s.eng.base.toNat Slot.empty s
      slideLoop fuel { s with eng := { s.eng with base := s.eng.base + 1 } }
    else s

/-- Step (c), slide (R253): a turn moves the base by one towards the END number. -/
def selectiveSlide (s : State) : State := slideLoop (s.eng.endSeq.toNat - s.eng.base.toNat) s

/-- Packet `q` is due: not acknowledged, and never sent or sent more than RTO ticks ago (R255). -/
def sendDue (s : State) (q : Nat) : Bool :=
  !(slotOf s q).acked &&
    (!(slotOf s q).sent || decide (ticksSince s.now (slotOf s q).timer > s.cfg.rto.toNat))

/-- One packet of the send pass (R255). -/
def sendSlot (q : Nat) (s : State) : State :=
  if sendDue s q then
    setSlot q { slotOf s q with sent := true, timer := s.now } (emit (dataF s q) s)
  else s

/-- The packets from `q` on, `n` of them, in increasing order (R255). -/
def sendLoop : Nat → Nat → State → State
  | 0, _, s => s
  | n + 1, q, s => sendLoop n (q + 1) (sendSlot q s)

/-- Step (a), the send pass over `[base, wend)` (R255). -/
def sendPass (s : State) : State := sendLoop (windowEnd s - s.eng.base.toNat) s.eng.base.toNat s

/-- The send pass and the next poll's start, or the close entry once every packet is acknowledged
(R251, R254). -/
def selectiveContinue (s : State) : State :=
  if s.eng.base = s.eng.endSeq then closeEntry s
  else
    let s := sendPass s
    { s with eng := { s.eng with pollStart := s.now } }

/-- Data-phase start (R251). -/
def selectiveStart (s : State) : State :=
  selectiveContinue { s with eng := { s.eng with base := origin s.cfg.mode } }

/-- End of a poll by a frame, whatever the frame is (R254). -/
def pollFrame (r : Option Parsed) (s : State) : State :=
  selectiveContinue (selectiveSlide (selectiveMark r s))

/-- End of a poll by timeout, on a TICK (R257). -/
def pollTimeout (s : State) : State :=
  if ticksSince s.now s.eng.pollStart ≥ s.cfg.poll.toNat then
    let s := sendPass (selectiveSlide s)
    { s with eng := { s.eng with pollStart := s.now } }
  else s

end Sys2Proof.Machine
end

