-- ==== Sys2Proof/Machine/Events.lean ====
section
/-! DEFINITION. The dispatch of received frames (spec 46_host_control R321, R322), and the meanings of the
RX rows, of TICK (R320) and of RESET (70_reset R370). -/

namespace Sys2Proof.Machine

/-- Sender START-ACK: a match opens the data phase of the mode (42_handshake R193). -/
def senderStartAck (a : Word) (s : State) : State :=
  if a = startAck s.cfg.mode then
    let s := { s with eng := { s.eng with hs := .established } }
    match s.cfg.mode with
    | .cumulative => cumulativeStart s
    | .selective => selectiveStart s
  else s

/-- A valid ACK at a sender that is not in the selective data phase (46_host_control R322). -/
def senderAck (a : Word) (s : State) : State :=
  match s.eng.hs with
  | .establishing => senderStartAck a s
  | .established => cumulativeAck a s
  | .closing => endAck a s
  | .idle | .closed => s

/-- A frame at a running sender (46_host_control R322). -/
def rxSender (r : Option Parsed) (s : State) : State :=
  if s.eng.hs = .established ∧ s.cfg.mode = .selective then pollFrame r s
  else
    match validSeq typeAck r with
    | some a => senderAck a s
    | none => s

/-- A frame at an ESTABLISHED receiver (46_host_control R322). -/
def receiverFrame (r : Option Parsed) (s : State) : State :=
  if startAccepted s r then receiverDuplicateStart s
  else
    match r with
    | none => s
    | some f =>
      if f.ok = false then s
      else if f.hdr.type = typeData then receiveData f.hdr.seq f.payload s
      else if f.hdr.type = typeEnd then receiverEnd f.hdr.seq s
      else s

/-- A frame at a running receiver (46_host_control R322). -/
def rxReceiver (r : Option Parsed) (s : State) : State :=
  match s.eng.hs with
  | .idle => receiverListen r s
  | .established => receiverFrame r s
  | .establishing | .closing | .closed => s

/-- Receive dispatch, after parsing (46_host_control R321, R322). -/
def rxEvent (r : Option Parsed) (s : State) : State :=
  if s.eng.running = false then s
  else
    match s.cfg.role with
    | .sender => rxSender r s
    | .receiver => rxReceiver r s

/-- The parse of a frame whose type an RX instruction names (41_codec R164). -/
def parsedRx (t : Word) (f : RxFrame) : Parsed :=
  parsedOf { type := t, seq := f.seq, length := f.length, csum := f.csum } f.payload

/-- RX START (42_handshake R203, R204; a sender drops it, R198, or ends its poll, 44 R254). -/
def execRxStart (f : RxFrame) (s : State) : Host.Outcome State Fault Refusal :=
  .next (rxEvent (some (parsedRx typeStart f)) s)

/-- RX END (42_handshake R201, R202). -/
def execRxEnd (f : RxFrame) (s : State) : Host.Outcome State Fault Refusal :=
  .next (rxEvent (some (parsedRx typeEnd f)) s)

/-- RX DATA (45_receiver_reorder R280 to R289). -/
def execRxData (f : RxFrame) (s : State) : Host.Outcome State Fault Refusal :=
  .next (rxEvent (some (parsedRx typeData f)) s)

/-- RX ACK (42_handshake R193, R196; 43 R223; 44 R252, R254). -/
def execRxAck (f : RxFrame) (s : State) : Host.Outcome State Fault Refusal :=
  .next (rxEvent (some (parsedRx typeAck f)) s)

/-- RX of a reserved type, or of a frame with no header (46_host_control R322, 41_codec R164). -/
def execRxReserved (f : RxOther) (s : State) : Host.Outcome State Fault Refusal :=
  match f with
  | .typed t g => .next (rxEvent (some (parsedRx t g)) s)
  | .noHeader _ => .next (rxEvent none s)

/-- The timer rule of a running sender (46_host_control R320). -/
def senderTimer (s : State) : State :=
  match s.eng.hs with
  | .establishing => startRetry s
  | .established =>
    match s.cfg.mode with
    | .cumulative => cumulativeTimeout s
    | .selective => pollTimeout s
  | .closing => endRetry s
  | .idle | .closed => s

/-- TICK (46_host_control R320). -/
def execTick (s : State) : Host.Outcome State Fault Refusal :=
  let s := { s with now := s.now + 1 }
  .next (if s.eng.running = true ∧ s.cfg.role = .sender then senderTimer s else s)

/-- RESET: every state element to its reset value, the frames in the TX port discarded (70_reset R370,
10_state R56). The build parameters and the events to come are not state the reset sets (logs 1, 5). -/
def execReset (s : State) : Host.Outcome State Fault Refusal :=
  .next { State.reset with build := s.build, inputs := s.inputs }

end Sys2Proof.Machine
end

