-- ==== Sys2Proof/Machine/CodecCommands.lean ====
section
/-! DEFINITION. The codec diagnostic commands (spec 40_checksum R146; 41_codec R165 to R167). They touch
FBUF and the codec registers only (46_host_control R311). -/

namespace Sys2Proof.Machine

/-- CSUM (R146). -/
def execCsum (s : State) : Host.Outcome State Fault Refusal :=
  if s.codec.fFlen.toNat > fbufBytes then .next (raiseError .badLen s.codec.fFlen s)
  else .next { s with codec := { s.codec with
    csumResult := csum16 (s.fbuf.readBytes 0 s.codec.fFlen.toNat) } }

/-- ENCODE (R165): the header is stamped in FBUF[0..16) over the payload that stands in FBUF[16..). -/
def execEncode (s : State) : Host.Outcome State Fault Refusal :=
  if s.codec.fLen.toNat > maxPayload then .next (raiseError .badLen s.codec.fLen s)
  else
    let f := encodeFrame s.codec.fType s.codec.fSeq (s.fbuf.readBytes hdrBytes s.codec.fLen.toNat)
    .next { s with
      fbuf := s.fbuf.writeBytes 0 (f.take hdrBytes)
      codec := { s.codec with fCsum := rdBe32 f 12, fFlen := 16 + s.codec.fLen } }

/-- DECODE (R166): no validation. -/
def execDecode (s : State) : Host.Outcome State Fault Refusal :=
  match fbufFrame s with
  | none => .next (raiseError .badLen s.codec.fFlen s)
  | some (h, p) => .next { s with codec := { s.codec with
      fType := h.type, fSeq := h.seq, fLen := h.length, fCsum := h.csum,
      fPlen := BitVec.ofNat 32 p.length } }

/-- VERIFY (R167): the header registers are not written. -/
def execVerify (s : State) : Host.Outcome State Fault Refusal :=
  match fbufFrame s with
  | none => .next (raiseError .badLen s.codec.fFlen s)
  | some (h, p) => .next { s with codec := { s.codec with
      fValid := verifyFrame h p, fPlen := BitVec.ofNat 32 p.length } }

end Sys2Proof.Machine
end

