-- ==== Sys2Proof/Machine/Control.lean ====
section
/-! DEFINITION. The control commands (spec 46_host_control R310 to R315). -/

namespace Sys2Proof.Machine

/-- NOP (R310). -/
def execNop (s : State) : Host.Outcome State Fault Refusal := .next s

/-- The configuration check of RUN: the index of the first illegal register (R312, 60_exceptions R344). -/
def configError (s : State) : Option Word :=
  if s.cfg.window.toNat < 1 ∨ s.cfg.window.toNat > s.build.wMax then some 0x02
  else
    match s.cfg.role with
    | .receiver => none
    | .sender =>
      if s.cfg.chunk.toNat < 1 ∨ s.cfg.chunk.toNat > maxPayload then some 0x03
      else if s.cfg.rto.toNat < 1 then some 0x04
      else if s.cfg.mode = .selective ∧ s.cfg.poll.toNat < 1 then some 0x05
      else if s.cfg.inLen.toNat > s.build.inCap then some 0x06
      else none

/-- RUN's initialisation of every engine field (R312, 10_state R57). ERR and ERR_INFO stay. -/
def initConnection (s : State) : State :=
  let o := origin s.cfg.mode
  { s with eng := { s.eng with
      running := true, done := false, hs := .idle, total := 0, endSeq := 0, base := o, nextAck := o + 1,
      sentHi := o, waitStart := s.now, pollStart := s.now, slots := [], expected := o, rbuf := [],
      outLen := 0 } }

/-- RUN's role start (R312): the sender counts its packets (43 R220) and opens; the receiver listens. -/
def roleStart (s : State) : State :=
  match s.cfg.role with
  | .sender =>
    let n := BitVec.ofNat 32 (packetCount s.cfg)
    senderOpen { s with eng := { s.eng with total := n, endSeq := origin s.cfg.mode + n } }
  | .receiver => receiverOpen s

/-- RUN (R312): FAULTED, then BUSY, then BAD_CONFIG, then the start. -/
def execRun (s : State) : Host.Outcome State Fault Refusal :=
  if s.eng.fault then .next (raiseError .faulted 0 s)
  else if s.eng.running then .next (raiseError .busy 0 s)
  else
    match configError s with
    | some i => .next (raiseError .badConfig i s)
    | none => .next (roleStart (initConnection s))

/-- SOFT_RESET (R314). -/
def execSoftReset (s : State) : Host.Outcome State Fault Refusal := .next { s with eng := Engine.reset }

/-- ERR_CLR (R315). -/
def execErrClr (s : State) : Host.Outcome State Fault Refusal := .next (clearError s)

/-- A reserved opcode: BAD_CMD with the opcode, zero-extended (R311, 60_exceptions R340). -/
def execBadCmd (op : BitVec 8) (s : State) : Host.Outcome State Fault Refusal :=
  .next (raiseError .badCmd (op.setWidth 32) s)

end Sys2Proof.Machine
end

