-- ==== Sys2Proof/Machine/HostAccess.lean ====
section
/-! DEFINITION. The host transactions (spec 30_encoding R118; 46_host_control R311, R316 to R318). -/

namespace Sys2Proof.Machine

/-- REG_RD: the value returned, and nothing else (R316, 20_memory R89). -/
def execRegRd (index : BitVec 8) (s : State) : Host.Outcome State Fault Refusal :=
  .next { s with rdata := readReg s index }

/-- Command dispatch on the opcode byte (R311). -/
def execOpcode (op : BitVec 8) (s : State) : Host.Outcome State Fault Refusal :=
  match op.toNat with
  | 0x00 => execNop s
  | 0x01 => execRun s
  | 0x02 => execSoftReset s
  | 0x03 => execErrClr s
  | 0x10 => execCsum s
  | 0x11 => execEncode s
  | 0x12 => execDecode s
  | 0x13 => execVerify s
  | _ => execBadCmd op s

/-- REG_WR (R317); a write to CMD executes bits 7:0 (R311, log 12). -/
def execRegWr (index : BitVec 8) (data : Word) (s : State) : Host.Outcome State Fault Refusal :=
  if index = cmdIndex then execOpcode (data.setWidth 8) s else .next (writeReg s index data)

/-- BUF_RD (R318). -/
def execBufRd (code : BitVec 2) (offset : Word) (s : State) : Host.Outcome State Fault Refusal :=
  .next { s with rdata := (readBuf s code offset.toNat).setWidth 32 }

/-- BUF_WR (R318). -/
def execBufWr (code : BitVec 2) (offset : Word) (data : Byte) (s : State) :
    Host.Outcome State Fault Refusal :=
  .next (writeBuf s code offset.toNat data)

end Sys2Proof.Machine
end

