-- ==== Sys2Proof/Machine/Transmit.lean ====
section
/-! DEFINITION. The TX rows: each is `emit` of its frame (spec 30_encoding R115, 20_memory R88). The engine
emits through the same `emit` and the same frames; no input event is one of these rows (log 11). -/

namespace Sys2Proof.Machine

/-- TX START_F (42_handshake R192). -/
def execTxStart (s : State) : Host.Outcome State Fault Refusal := .next (emit startF s)

/-- TX END_F (42_handshake R195). -/
def execTxEnd (e : Word) (s : State) : Host.Outcome State Fault Refusal := .next (emit (endF e) s)

/-- TX DATA_F (43_sender_cumulative R222). -/
def execTxData (q : Word) (p : Bytes) (s : State) : Host.Outcome State Fault Refusal :=
  .next (emit (dataFrame q p) s)

/-- TX ACK_F (42_handshake R203). -/
def execTxAck (a : Word) (s : State) : Host.Outcome State Fault Refusal := .next (emit (ackF a) s)

end Sys2Proof.Machine
end

