-- ==== Sys2Proof/Machine/Dispatch.lean ====
section
/-! DEFINITION. One arm per instruction. -/

namespace Sys2Proof.Machine

def exec (i : Instr) (s : State) : Host.Outcome State Fault Refusal :=
  match i with
  | .nop => Sys2Proof.Machine.execNop s
  | .run => Sys2Proof.Machine.execRun s
  | .softReset => Sys2Proof.Machine.execSoftReset s
  | .errClr => Sys2Proof.Machine.execErrClr s
  | .csum => Sys2Proof.Machine.execCsum s
  | .encode => Sys2Proof.Machine.execEncode s
  | .decode => Sys2Proof.Machine.execDecode s
  | .verify => Sys2Proof.Machine.execVerify s
  | .badCmd op => Sys2Proof.Machine.execBadCmd op s
  | .regRd index => Sys2Proof.Machine.execRegRd index s
  | .regWr index data => Sys2Proof.Machine.execRegWr index data s
  | .bufRd code offset => Sys2Proof.Machine.execBufRd code offset s
  | .bufWr code offset data => Sys2Proof.Machine.execBufWr code offset data s
  | .rxStart f => Sys2Proof.Machine.execRxStart f s
  | .rxEnd f => Sys2Proof.Machine.execRxEnd f s
  | .rxData f => Sys2Proof.Machine.execRxData f s
  | .rxAck f => Sys2Proof.Machine.execRxAck f s
  | .rxReserved f => Sys2Proof.Machine.execRxReserved f s
  | .txStart => Sys2Proof.Machine.execTxStart s
  | .txEnd e => Sys2Proof.Machine.execTxEnd e s
  | .txData q p => Sys2Proof.Machine.execTxData q p s
  | .txAck a => Sys2Proof.Machine.execTxAck a s
  | .tick => Sys2Proof.Machine.execTick s
  | .reset => Sys2Proof.Machine.execReset s

end Sys2Proof.Machine
end

