-- ==== Sys2Proof/Machine/Step.lean ====
section
/-! DEFINITION. One step: take the oldest event, decode it, run it whole (spec 00_scope R16). -/

namespace Sys2Proof.Machine

/-- One step. With no event to take the block does nothing (60_exceptions R357; log 1). -/
def step (s : State) : Host.Outcome State Fault Refusal :=
  match takeInput s with
  | none => .next s
  | some (e, s') => exec (decodeInput e) s'

/-- The event of an opcode-table word as the next one the block takes (log 2). -/
def State.withFetchWord (s : State) (nbits w : Nat) : State :=
  { s with inputs := tableInput nbits w :: s.inputs }

end Sys2Proof.Machine
end

