-- ==== Sys2Proof/Machine/System.lean ====
section
/-! DEFINITION. The complete system: two instances, each with its own state and clock, and the two channels
between them (spec 60_exceptions R360, R361; log 15). -/

namespace Sys2Proof.Machine

/-- Which instance. -/
inductive Side where
  | left | right
deriving DecidableEq, Repr

/-- Two instances and the frames in flight towards each. -/
structure System where
  left    : State
  right   : State
  toLeft  : List Bytes
  toRight : List Bytes
deriving DecidableEq, Repr

/-- What can happen to the system: an event of the host or the platform at one instance, or one of the
channel's choices (R360) for the frame at place `i` in flight towards an instance. A delay is any number of
other actions before `deliver`. -/
inductive SysAction where
  | event (side : Side) (e : Input)
  | deliver (dst : Side) (i : Nat)
  | drop (dst : Side) (i : Nat)
  | duplicate (dst : Side) (i : Nat)
  | reorder (dst : Side) (i : Nat)
  | corrupt (dst : Side) (i : Nat) (bytes : Bytes)
deriving DecidableEq, Repr

/-- The event is a frame's arrival, which is the channel's to give. -/
def isFrame : Input → Bool
  | .rx _ => true
  | _ => false

/-- One event at one instance; then the platform takes every frame that stands in the TX port. -/
def instanceEvent (e : Input) (s : State) : State × List Bytes :=
  match step { s with inputs := [e] } with
  | .next t => ({ t with inputs := s.inputs, tx := [] }, t.tx)
  | .fault _ => (s, [])
  | .refused _ => (s, [])

/-- The frames in flight towards an instance. -/
def System.inFlight (y : System) : Side → List Bytes
  | .left => y.toLeft
  | .right => y.toRight

/-- Replace the frames in flight towards an instance. -/
def System.setInFlight (y : System) (dst : Side) (fs : List Bytes) : System :=
  match dst with
  | .left => { y with toLeft := fs }
  | .right => { y with toRight := fs }

/-- One event at an instance; what it emits goes in flight towards its peer. -/
def System.eventAt (y : System) (side : Side) (e : Input) : System :=
  match side with
  | .left =>
    let r := instanceEvent e y.left
    { y with left := r.1, toRight := y.toRight ++ r.2 }
  | .right =>
    let r := instanceEvent e y.right
    { y with right := r.1, toLeft := y.toLeft ++ r.2 }

/-- One action (R360). A frame that is not there is no frame: nothing happens. -/
def System.act (y : System) : SysAction → System
  | .event side e => if isFrame e then y else y.eventAt side e
  | .deliver dst i =>
    match (y.inFlight dst)[i]? with
    | none => y
    | some f => (y.setInFlight dst ((y.inFlight dst).eraseIdx i)).eventAt dst (.rx f)
  | .drop dst i => y.setInFlight dst ((y.inFlight dst).eraseIdx i)
  | .duplicate dst i =>
    match (y.inFlight dst)[i]? with
    | none => y
    | some f => y.setInFlight dst (y.inFlight dst ++ [f])
  | .reorder dst i =>
    match (y.inFlight dst)[i]? with
    | none => y
    | some f => y.setInFlight dst ((y.inFlight dst).eraseIdx i ++ [f])
  | .corrupt dst i bytes => y.setInFlight dst ((y.inFlight dst).set i bytes)

/-- Actions one after another. -/
def System.run (y : System) : List SysAction → System
  | [] => y
  | a :: rest => System.run (y.act a) rest

end Sys2Proof.Machine
end

