-- ==== Sys2Proof/Safety.lean ====
section
/-! DEFINITION. What counts as a good state and a safe run, in the terms the statements use: the invariants
of spec 10_state R58, the legal handshake states (42_handshake R190, 46_host_control R323), the form of
emitted frames (30_encoding R115), and the state of a transfer between two instances (60_exceptions R362). -/

namespace Sys2Proof.Machine

/-- The buffers have their canonical form and list no byte past their sizes (20_memory R80). -/
structure MemoryOk (s : State) : Prop where
  inbufWF     : Memory.wf s.inbuf
  outbufWF    : Memory.wf s.outbuf
  fbufWF      : Memory.wf s.fbuf
  inbufBound  : ∀ c ∈ s.inbuf, c.1 < s.build.inCap
  outbufBound : ∀ c ∈ s.outbuf, c.1 < s.build.outCap
  fbufBound   : ∀ c ∈ s.fbuf, c.1 < fbufBytes

/-- The flags and the handshake state agree (10_state R50, 42_handshake R190, 60_exceptions R343). -/
structure FlagsOk (s : State) : Prop where
  /-- DONE is 1 exactly in CLOSED (10_state R50). -/
  doneIffClosed : s.eng.done = true ↔ s.eng.hs = .closed
  /-- A running connection is neither done nor faulted. -/
  runningClear  : s.eng.running = true → s.eng.done = false ∧ s.eng.fault = false
  /-- A running sender is in ESTABLISHING, ESTABLISHED or CLOSING (46_host_control R323). -/
  senderStates  : s.eng.running = true → s.cfg.role = .sender →
    s.eng.hs = .establishing ∨ s.eng.hs = .established ∨ s.eng.hs = .closing
  /-- A running receiver is in IDLE or ESTABLISHED (42_handshake R190). -/
  receiverStates : s.eng.running = true → s.cfg.role = .receiver →
    s.eng.hs = .idle ∨ s.eng.hs = .established
  /-- A faulted block keeps the ESTABLISHED it had (60_exceptions R343). -/
  faultKeepsHs  : s.eng.fault = true → s.eng.hs = .established
  /-- No error recorded has no information (60_exceptions R340). -/
  noErrNoInfo   : s.eng.err = .none → s.eng.errInfo = 0

/-- The configuration RUN accepts (46_host_control R312). -/
structure ConfigLegal (s : State) : Prop where
  window : 1 ≤ s.cfg.window.toNat ∧ s.cfg.window.toNat ≤ s.build.wMax
  chunk  : s.cfg.role = .sender → 1 ≤ s.cfg.chunk.toNat ∧ s.cfg.chunk.toNat ≤ maxPayload
  rto    : s.cfg.role = .sender → 1 ≤ s.cfg.rto.toNat
  poll   : s.cfg.role = .sender → s.cfg.mode = .selective → 1 ≤ s.cfg.poll.toNat
  inLen  : s.cfg.role = .sender → s.cfg.inLen.toNat ≤ s.build.inCap

/-- The sender's numbers while a connection runs (10_state R58 items 1 to 3, 43 R220, R229, 44 R259). -/
structure SenderOk (s : State) : Prop where
  total       : s.eng.total.toNat = packetCount s.cfg
  endSeq      : s.eng.endSeq.toNat = (origin s.cfg.mode).toNat + packetCount s.cfg
  /-- R58 item 1. -/
  baseLow     : (origin s.cfg.mode).toNat ≤ s.eng.base.toNat
  baseHigh    : s.eng.base.toNat ≤ s.eng.endSeq.toNat
  /-- Before the data phase the window is where RUN put it (46_host_control R312). -/
  opening     : s.eng.hs = .establishing → s.eng.base = origin s.cfg.mode ∧ s.eng.slots = []
  established : s.eng.hs = .established → s.eng.base.toNat < s.eng.endSeq.toNat
  closing     : s.eng.hs = .closing → s.eng.base = s.eng.endSeq
  /-- R58 item 2. -/
  cumulative  : s.cfg.mode = .cumulative → s.eng.hs = .established →
    s.eng.nextAck.toNat = s.eng.base.toNat + 1 ∧ s.eng.base.toNat ≤ s.eng.sentHi.toNat ∧
      s.eng.sentHi.toNat = windowEnd s
  /-- The tables are the selective sender's (10_state R52). -/
  cumulativeSlots : s.cfg.mode = .cumulative → s.eng.slots = []
  /-- The tables list entries of the window only, in order (10_state R52; 44 R259). -/
  slotsSorted : Store.Sorted s.eng.slots
  slotsWindow : ∀ e ∈ s.eng.slots, s.eng.base.toNat ≤ e.1 ∧ e.1 < windowEnd s
  slotsUsed   : ∀ e ∈ s.eng.slots, e.2 ≠ Slot.empty
  /-- R58 item 3. -/
  baseUnacked : s.eng.base.toNat < s.eng.endSeq.toNat → (slotOf s s.eng.base.toNat).acked = false

/-- The receiver's numbers while a connection runs (10_state R58 items 4 and 5). -/
structure ReceiverOk (s : State) : Prop where
  rbufSorted : Store.Sorted s.eng.rbuf
  /-- R58 item 4. -/
  rbufWindow : ∀ e ∈ s.eng.rbuf,
    s.eng.expected.toNat < e.1 ∧ e.1 < s.eng.expected.toNat + s.cfg.window.toNat
  rbufNumber : ∀ e ∈ s.eng.rbuf, e.1 < 2 ^ 32
  /-- R54: a buffered payload is at most 2032 bytes. -/
  rbufSize   : ∀ e ∈ s.eng.rbuf, e.2.length ≤ maxRxPayload

/-- The invariant of one instance. -/
structure Inv (s : State) : Prop where
  build    : s.build.Legal
  memory   : MemoryOk s
  flags    : FlagsOk s
  outLen   : s.eng.outLen.toNat ≤ s.build.outCap
  config   : s.eng.running = true → ConfigLegal s
  sender   : s.eng.running = true → s.cfg.role = .sender → SenderOk s
  receiver : s.eng.running = true → s.cfg.role = .receiver → ReceiverOk s

/-- The frames the block may emit (30_encoding R115, R112). -/
def EmittedForm (f : Bytes) : Prop :=
  f = startF ∨ (∃ e, f = endF e) ∨ (∃ q p, p.length ≤ maxPayload ∧ f = dataFrame q p) ∨ ∃ a, f = ackF a

/-- A frame that reception takes as valid (41_codec R164). -/
def FrameValid (f : Bytes) : Prop := ∃ r, rxParse f = some r ∧ r.ok = true

/-- A safe step: the block goes on. -/
def SafeStep (s : State) : Prop := ∃ t, step s = .next t

/-- A frame of the transfer the sender `a` makes: its START, its END or one of its DATA frames. -/
def TransferFrame (a : State) (f : Bytes) : Prop :=
  f = startF ∨ f = endF a.eng.endSeq ∨
    ∃ q, (origin a.cfg.mode).toNat ≤ q ∧ q < a.eng.endSeq.toNat ∧ f = dataF a q

/-- A transfer under way from the left instance to the right one over a channel that corrupts nothing: what
is in flight, buffered and delivered is the sender's input (60_exceptions R362; 45 R290). -/
structure Transfer (y : System) : Prop where
  senderRole   : y.left.cfg.role = .sender
  receiverRole : y.right.cfg.role = .receiver
  sameMode     : y.left.cfg.mode = y.right.cfg.mode
  leftBuild    : y.left.build.Legal
  leftConfig   : ConfigLegal y.left
  leftEndSeq   : y.left.eng.endSeq.toNat = (origin y.left.cfg.mode).toNat + packetCount y.left.cfg
  leftNumbers  : y.left.eng.running = true → SenderOk y.left
  leftFlags    : FlagsOk y.left
  rightFlags   : FlagsOk y.right
  leftTaken    : y.left.tx = []
  rightTaken   : y.right.tx = []
  inFlight     : ∀ f ∈ y.toRight, TransferFrame y.left f
  replies      : ∀ f ∈ y.toLeft, ∃ a, f = ackF a
  expectedLow  : (origin y.left.cfg.mode).toNat ≤ y.right.eng.expected.toNat
  expectedHigh : y.right.eng.expected.toNat ≤ y.left.eng.endSeq.toNat
  buffered     : y.right.eng.running = true → ∀ e ∈ y.right.eng.rbuf,
    y.right.eng.expected.toNat < e.1 ∧ e.1 < y.left.eng.endSeq.toNat ∧ e.2 = chunkOf y.left e.1
  bufferedOnce : y.right.eng.running = true → Store.Sorted y.right.eng.rbuf
  delivered    : y.right.eng.outLen.toNat =
    min y.left.cfg.inLen.toNat
      ((y.right.eng.expected.toNat - (origin y.left.cfg.mode).toNat) * y.left.cfg.chunk.toNat)
  output       : ∀ i, i < y.right.eng.outLen.toNat → y.right.outbuf.read i = y.left.inbuf.read i
  complete     : y.right.eng.done = true → y.right.eng.expected = y.left.eng.endSeq

/-- The channel's choices that leave every frame as it is, and the events that are neither a command nor a
write: ticks and host reads (60_exceptions R360; R362 items 1 to 3). -/
def Undisturbed : SysAction → Bool
  | .event _ .tick => true
  | .event _ (.reg false _ _) => true
  | .event _ (.buf false _ _ _) => true
  | .event _ _ => false
  | .deliver _ _ | .drop _ _ | .duplicate _ _ | .reorder _ _ => true
  | .corrupt _ _ _ => false

end Sys2Proof.Machine
end

