-- ==== Sys2Proof/Certificates/Slice0/Obligations.lean ====
section
/-! DEFINITION. The statements for the provers. Each docstring names the rules of spec/ it rests on; a
statement that rests on a choice of the model says which log entry. -/

open Sys2Proof Sys2Proof.Machine Host

/-! ## Encodings and the codec -/

/-- Decode and encode agree for every well-formed instruction (30_encoding R111 to R119). The port of a TX
row and the form of an input event are the model's (logs 11, 12). -/
def Obligations.EncodedInstructionsDecodeBack : Prop :=
  ∀ i : Instr, WellFormed i = true → decode (encode i) = .ok i

/-- The decoder answers well-formed instructions only (30_encoding R112 to R119; logs 10, 12). -/
def Obligations.DecodedInstructionsAreWellFormed : Prop :=
  ∀ (w : Wire) (i : Instr), decode w = .ok i → WellFormed i = true

/-- 30_encoding R119. -/
def Obligations.CommandUpperBitsAreIgnored : Prop :=
  ∀ v w : Word, v.extractLsb' 0 8 = w.extractLsb' 0 8 →
    decodeInput (.reg true 0x07 v) = decodeInput (.reg true 0x07 w)

/-- A few encodings written out in spec/95_test_vectors.md and 30_encoding R117, R118. -/
def Obligations.SpecWordsDecode : Prop :=
  decode (.input (.reg true 0x07 0x00000001)) = .ok .run ∧
  decode (.input (.reg true 0x07 0x00000111)) = .ok .encode ∧
  decode (.input (.reg true 0x07 0x0000007F)) = .ok (.badCmd 0x7F) ∧
  decode (.input (.reg false 0x12 0)) = .ok (.regRd 0x12) ∧
  decode (.input (.buf true 2 0x11 0x62)) = .ok (.bufWr 2 0x11 0x62) ∧
  decode (.input (.rx [0, 0, 0, 2, 0, 0, 0, 1, 0, 0, 0, 2, 0, 0, 0x9E, 0x98, 0x61, 0x62])) =
    .ok (.rxData { seq := 1, length := 2, csum := 0x9E98, payload := [0x61, 0x62] }) ∧
  decode (.tx [0, 0, 0, 3, 0, 0, 0, 1, 0, 0, 0, 0, 0, 0, 0xFF, 0xFB]) = .ok (.txAck 1)

/-- 41_codec R168, the law of `decode`, `verify` and `encode`. -/
def Obligations.FrameRoundTrip : Prop :=
  ∀ (t q : Word) (p : Bytes), p.length ≤ 1456 →
    decodeFrame (encodeFrame t q p) =
      some ({ type := t, seq := q, length := BitVec.ofNat 32 p.length,
              csum := (frameCsum t q (BitVec.ofNat 32 p.length) p).setWidth 32 }, p) ∧
    verifyFrame { type := t, seq := q, length := BitVec.ofNat 32 p.length,
                  csum := (frameCsum t q (BitVec.ofNat 32 p.length) p).setWidth 32 } p = true

/-- 41_codec R162, R164; 20_memory R88; 30_encoding R114; 45_receiver_reorder R291: under 16 bytes there is no
header, past 2048 bytes nothing is seen, and the bytes past `16 + length` are ignored, whether the frame is
valid or not; a frame shorter than `16 + length` gives the bytes it has. -/
def Obligations.ReceptionReadsHeaderAndLength : Prop :=
  (∀ raw : Bytes, raw.length < 16 → rxParse raw = none) ∧
  (∀ raw : Bytes, 16 ≤ raw.length → ∃ r, rxParse raw = some r ∧ r.payload.length ≤ 2032) ∧
  (∀ a b : Bytes, a.length = 2048 → rxParse (a ++ b) = rxParse a) ∧
  (∀ (h : Header) (p extra : Bytes), h.length.toNat = p.length → p.length ≤ 2032 →
    rxParse (headerBytes h ++ p ++ extra) = some (parsedOf h p)) ∧
  (∀ (h : Header) (b : Bytes),
    rxParse (headerBytes h ++ b) = some (parsedOf h ((b.take 2032).take h.length.toNat))) ∧
  ∀ (t q : Word) (p extra : Bytes), p.length ≤ 1456 →
    rxParse (encodeFrame t q p ++ extra) =
      some { hdr := stampedHeader t q p, payload := p, ok := true }

/-- 40_checksum R140: the loop, and that it ends in 16 bits. -/
def Obligations.FoldFollowsItsLoop : Prop :=
  ∀ x : Nat, fold16 x ≤ 0xFFFF ∧ (x ≤ 0xFFFF → fold16 x = x) ∧
    (0xFFFF < x → fold16 x = fold16 (x % 0x10000 + x / 0x10000))

/-- 40_checksum R144, the verification identity. -/
def Obligations.ValidFrameSumsToAllOnes : Prop :=
  ∀ (h : Header) (p : Bytes), h.csum = (frameCsum h.type h.seq h.length p).setWidth 32 →
    fold16 (wordSum (headerBytes h ++ p)) = 0xFFFF

/-- 40_checksum R145, 41_codec R169: one flipped payload bit with the old checksum never verifies. -/
def Obligations.FlippedPayloadBitFailsVerify : Prop :=
  ∀ (h : Header) (p : Bytes) (i b : Nat), i < p.length → b < 8 → verifyFrame h p = true →
    verifyFrame h (p.set i (p.getD i 0 ^^^ (1#8 <<< b))) = false

/-! ## Steps -/

/-- 00_scope R16: one event a step, whole, in the order of arrival; nothing between events (60_exceptions
R357). That the events to come stand in `inputs` is the model's choice (log 1). -/
def Obligations.StepRunsTheDecodedEvent : Prop :=
  ∀ s : State,
    (∀ (e : Input) (rest : List Input), s.inputs = e :: rest →
      step s = exec (decodeInput e) { s with inputs := rest }) ∧
    (s.inputs = [] → step s = .next s)

/-- 46_host_control R321, R322: whichever RX instruction a frame decodes to, it runs the dispatch on what
`rx_parse` makes of the frame. -/
def Obligations.ArrivingFrameRunsItsParse : Prop :=
  ∀ (raw : Bytes) (s : State), exec (decodeInput (.rx raw)) s = .next (rxEvent (rxParse raw) s)

/-! ## Reset -/

/-- 10_state R56, the reset table. -/
def Obligations.ResetLeavesTheTable : Prop :=
  let s := State.reset
  readReg s 0x01 = 0 ∧ readReg s 0x02 = 1 ∧ readReg s 0x03 = 1456 ∧ readReg s 0x04 = 500 ∧
  readReg s 0x05 = 50 ∧ readReg s 0x06 = 0 ∧ readReg s 0x0A = 0 ∧
  s.eng.hs = .idle ∧ s.eng.running = false ∧ s.eng.done = false ∧ s.eng.fault = false ∧
  s.eng.err = .none ∧ s.eng.errInfo = 0 ∧ s.now = 0 ∧
  s.eng.total = 0 ∧ s.eng.base = 0 ∧ s.eng.nextAck = 0 ∧ s.eng.sentHi = 0 ∧ s.eng.endSeq = 0 ∧
  s.eng.waitStart = 0 ∧ s.eng.pollStart = 0 ∧
  (∀ q, slotOf s q = { acked := false, sent := false, timer := 0 }) ∧
  s.eng.expected = 0 ∧ s.eng.outLen = 0 ∧ (∀ k, Store.find? s.eng.rbuf k = none) ∧
  (∀ i : BitVec 8, 0x14 ≤ i.toNat → i.toNat ≤ 0x1B → readReg s i = 0) ∧
  (∀ a, s.inbuf.read a = 0 ∧ s.outbuf.read a = 0 ∧ s.fbuf.read a = 0) ∧
  s.tx = [] ∧ s.irq = false

/-- 70_reset R370: hardware reset sets every state element to its reset value, discards the frames in the
TX port and emits none. What it does with the model's own fields is logs 1, 3 and 5. -/
def Obligations.HardwareResetSetsEveryElement : Prop :=
  ∀ s : State, ∃ t, exec .reset s = .next t ∧
    (∀ i, readReg t i = readReg State.reset i) ∧ t.cfg = State.reset.cfg ∧ t.irqEn = State.reset.irqEn ∧
    t.now = State.reset.now ∧ t.eng = State.reset.eng ∧ t.codec = State.reset.codec ∧
    (∀ a, t.inbuf.read a = 0 ∧ t.outbuf.read a = 0 ∧ t.fbuf.read a = 0) ∧
    t.tx = [] ∧ t.irq = false ∧ t.build = s.build ∧ t.inputs = s.inputs

/-- 46_host_control R314. -/
def Obligations.SoftResetClearsTheEngineOnly : Prop :=
  ∀ s : State, exec .softReset s = .next { s with eng :=
    { hs := .idle, running := false, done := false, fault := false, err := .none, errInfo := 0,
      total := 0, base := 0, nextAck := 0, sentHi := 0, endSeq := 0, waitStart := 0, pollStart := 0,
      slots := [], expected := 0, rbuf := [], outLen := 0 } }

/-! ## Control commands and errors -/

/-- 46_host_control R310. -/
def Obligations.NopChangesNothing : Prop := ∀ s : State, exec .nop s = .next s

/-- 46_host_control R315: ERR and ERR_INFO become 0, every other bit of STATUS stays. -/
def Obligations.ErrClrClearsTheRecord : Prop :=
  ∀ s : State, ∃ t, exec .errClr s = .next t ∧
    t = { s with eng := { s.eng with err := .none, errInfo := 0 } } ∧
    readReg t 0x08 = readReg s 0x08 &&& 0xFFFFF0FF ∧ readReg t 0x09 = 0

/-- 46_host_control R311, 60_exceptions R340, R342: a reserved opcode records BAD_CMD and the opcode, and
does nothing else. -/
def Obligations.ReservedOpcodeRecordsBadCmd : Prop :=
  ∀ (op : BitVec 8) (s : State), op ∉ [0x00, 0x01, 0x02, 0x03, 0x10, 0x11, 0x12, 0x13#8] →
    exec (.badCmd op) s =
      .next { s with eng := { s.eng with err := .badCmd, errInfo := op.setWidth 32 } } ∧
    ∀ v : Word, v.extractLsb' 0 8 = op →
      exec (.regWr 0x07 v) s =
        .next { s with eng := { s.eng with err := .badCmd, errInfo := op.setWidth 32 } }

/-- 46_host_control R312: the refusals in their order, then the sender's or the receiver's start. -/
def Obligations.RunChecksThenStarts : Prop :=
  ∀ s : State,
    let o : Word := if s.cfg.mode = .cumulative then 1 else 0
    let n : Word := BitVec.ofNat 32 ((s.cfg.inLen.toNat + s.cfg.chunk.toNat - 1) / s.cfg.chunk.toNat)
    let refuse (c : ErrCode) (i : Word) : Outcome State Fault Refusal :=
      .next { s with eng := { s.eng with err := c, errInfo := i } }
    exec .run s =
      if s.eng.fault = true then refuse .faulted 0
      else if s.eng.running = true then refuse .busy 0
      else if s.cfg.window.toNat < 1 ∨ s.build.wMax < s.cfg.window.toNat then refuse .badConfig 0x02
      else if s.cfg.role = .sender ∧ (s.cfg.chunk.toNat < 1 ∨ 1456 < s.cfg.chunk.toNat) then
        refuse .badConfig 0x03
      else if s.cfg.role = .sender ∧ s.cfg.rto.toNat < 1 then refuse .badConfig 0x04
      else if s.cfg.role = .sender ∧ s.cfg.mode = .selective ∧ s.cfg.poll.toNat < 1 then
        refuse .badConfig 0x05
      else if s.cfg.role = .sender ∧ s.build.inCap < s.cfg.inLen.toNat then refuse .badConfig 0x06
      else if s.cfg.role = .sender then
        .next { s with
          tx := s.tx ++ [[0, 0, 0, 0, 0, 0, 0, 0, 0, 0, 0, 0, 0, 0, 0xFF, 0xFF]]
          eng := { s.eng with
            hs := .establishing, running := true, done := false, total := n, base := o, nextAck := o + 1,
            sentHi := o, endSeq := o + n, waitStart := s.now, pollStart := s.now, slots := [],
            expected := o, rbuf := [], outLen := 0 } }
      else
        .next { s with eng := { s.eng with
          hs := .idle, running := true, done := false, total := 0, base := o, nextAck := o + 1,
          sentHi := o, endSeq := 0, waitStart := s.now, pollStart := s.now, slots := [],
          expected := o, rbuf := [], outLen := 0 } }

/-! ## Codec commands -/

/-- 40_checksum R146. -/
def Obligations.CsumCommand : Prop :=
  ∀ s : State, exec .csum s =
    if 2048 < s.codec.fFlen.toNat then
      .next { s with eng := { s.eng with err := .badLen, errInfo := s.codec.fFlen } }
    else
      .next { s with codec := { s.codec with
        csumResult := csum16 ((List.range s.codec.fFlen.toNat).map fun i => s.fbuf.read i) } }

/-- 41_codec R165. -/
def Obligations.EncodeCommand : Prop :=
  ∀ s : State,
    (1456 < s.codec.fLen.toNat → exec .encode s =
      .next { s with eng := { s.eng with err := .badLen, errInfo := s.codec.fLen } }) ∧
    (s.codec.fLen.toNat ≤ 1456 →
      let p : Bytes := (List.range s.codec.fLen.toNat).map fun i => s.fbuf.read (16 + i)
      let f : Bytes := encodeFrame s.codec.fType s.codec.fSeq p
      ∃ t, exec .encode s = .next t ∧
        (∀ a, t.fbuf.read a = if a < 16 then f.getD a 0 else s.fbuf.read a) ∧
        t = { s with
          fbuf := t.fbuf
          codec := { s.codec with
            fCsum := (frameCsum s.codec.fType s.codec.fSeq s.codec.fLen p).setWidth 32
            fFlen := BitVec.ofNat 32 (16 + s.codec.fLen.toNat) } })

/-- 41_codec R166. -/
def Obligations.DecodeCommand : Prop :=
  ∀ s : State,
    ((2048 < s.codec.fFlen.toNat ∨ s.codec.fFlen.toNat < 16) → exec .decode s =
      .next { s with eng := { s.eng with err := .badLen, errInfo := s.codec.fFlen } }) ∧
    (16 ≤ s.codec.fFlen.toNat ∧ s.codec.fFlen.toNat ≤ 2048 →
      let field (i : Nat) : Word :=
        s.fbuf.read i ++ s.fbuf.read (i + 1) ++ s.fbuf.read (i + 2) ++ s.fbuf.read (i + 3)
      exec .decode s = .next { s with codec := { s.codec with
        fType := field 0, fSeq := field 4, fLen := field 8, fCsum := field 12,
        fPlen := BitVec.ofNat 32 (min (field 8).toNat (s.codec.fFlen.toNat - 16)) } })

/-- 41_codec R167. -/
def Obligations.VerifyCommand : Prop :=
  ∀ s : State,
    ((2048 < s.codec.fFlen.toNat ∨ s.codec.fFlen.toNat < 16) → exec .verify s =
      .next { s with eng := { s.eng with err := .badLen, errInfo := s.codec.fFlen } }) ∧
    (16 ≤ s.codec.fFlen.toNat ∧ s.codec.fFlen.toNat ≤ 2048 →
      let field (i : Nat) : Word :=
        s.fbuf.read i ++ s.fbuf.read (i + 1) ++ s.fbuf.read (i + 2) ++ s.fbuf.read (i + 3)
      let n : Nat := min (field 8).toNat (s.codec.fFlen.toNat - 16)
      let p : Bytes := (List.range n).map fun i => s.fbuf.read (16 + i)
      exec .verify s = .next { s with codec := { s.codec with
        fValid := field 12 == (frameCsum (field 0) (field 4) (field 8) p).setWidth 32
        fPlen := BitVec.ofNat 32 n } })

/-- 41_codec R165, R167, R168: a frame that ENCODE built verifies. -/
def Obligations.EncodedFrameVerifies : Prop :=
  ∀ s : State, s.codec.fLen.toNat ≤ 1456 →
    ∃ t u, exec .encode s = .next t ∧ exec .verify t = .next u ∧
      u.codec.fValid = true ∧ u.codec.fPlen = s.codec.fLen

/-- 46_host_control R311: the codec commands touch FBUF, the codec registers and, in an error, the error
record only; frames and TICK touch neither FBUF nor the codec registers (10_state R46). -/
def Obligations.CodecAndEngineShareNoState : Prop :=
  (∀ (i : Instr) (s t : State), i ∈ [Instr.csum, .encode, .decode, .verify] → exec i s = .next t →
    t = { s with codec := t.codec, fbuf := t.fbuf,
                 eng := { s.eng with err := t.eng.err, errInfo := t.eng.errInfo } }) ∧
  ∀ (r : Option Parsed) (s t : State), (exec .tick s = .next t ∨ t = rxEvent r s) →
    t.codec = s.codec ∧ t.fbuf = s.fbuf ∧ t.inbuf = s.inbuf ∧ t.cfg = s.cfg ∧ t.irqEn = s.irqEn ∧
      t.rdata = s.rdata

/-! ## Host accesses -/

/-- 46_host_control R316: what every index reads, and that a read changes nothing but the value returned
(that the value returned is kept in `rdata` is the model's choice, log 3). -/
def Obligations.RegisterReadReturnsTheMap : Prop :=
  ∀ s : State,
    (∀ i, exec (.regRd i) s = .next { s with rdata := readReg s i }) ∧
    readReg s 0x00 = 0x52545031 ∧
    (readReg s 0x01).toNat = (if s.cfg.verifyStart then 4 else 0) +
      (if s.cfg.mode = .selective then 2 else 0) + (if s.cfg.role = .receiver then 1 else 0) ∧
    readReg s 0x02 = s.cfg.window ∧ readReg s 0x03 = s.cfg.chunk ∧ readReg s 0x04 = s.cfg.rto ∧
    readReg s 0x05 = s.cfg.poll ∧ readReg s 0x06 = s.cfg.inLen ∧ readReg s 0x07 = 0 ∧
    (readReg s 0x08).toNat = s.eng.hs.code.toNat + (if s.eng.running then 8 else 0) +
      (if s.eng.done then 16 else 0) + (if s.eng.fault then 32 else 0) + 256 * s.eng.err.code.toNat ∧
    readReg s 0x09 = s.eng.errInfo ∧
    (readReg s 0x0A).toNat = (if s.irqEn.errIe then 2 else 0) + (if s.irqEn.doneIe then 1 else 0) ∧
    readReg s 0x0B = s.now ∧ readReg s 0x0C = s.eng.outLen ∧ readReg s 0x0D = s.eng.expected ∧
    readReg s 0x0E = s.eng.base ∧ readReg s 0x0F = s.eng.total ∧ readReg s 0x10 = s.eng.nextAck ∧
    readReg s 0x11 = s.eng.sentHi ∧ readReg s 0x12 = BitVec.ofNat 32 s.eng.rbuf.length ∧
    readReg s 0x13 = s.eng.endSeq ∧ readReg s 0x14 = s.codec.fType ∧ readReg s 0x15 = s.codec.fSeq ∧
    readReg s 0x16 = s.codec.fLen ∧ readReg s 0x17 = s.codec.fCsum ∧ readReg s 0x18 = s.codec.fFlen ∧
    readReg s 0x19 = s.codec.fPlen ∧ (readReg s 0x1A).toNat = (if s.codec.fValid then 1 else 0) ∧
    (readReg s 0x1B).toNat = s.codec.csumResult.toNat ∧
    ∀ i : BitVec 8, 0x1C ≤ i.toNat → readReg s i = 0

/-- 46_host_control R317. -/
def Obligations.RegisterWriteFollowsTheMap : Prop :=
  ∀ (s : State) (v : Word),
    let unlocked (c : Cfg) : Outcome State Fault Refusal :=
      .next (if s.eng.running = true then s else { s with cfg := c })
    exec (.regWr 0x01 v) s = unlocked { s.cfg with
      role := if v.getLsbD 0 then .receiver else .sender
      mode := if v.getLsbD 1 then .selective else .cumulative
      verifyStart := v.getLsbD 2 } ∧
    exec (.regWr 0x02 v) s = unlocked { s.cfg with window := v } ∧
    exec (.regWr 0x03 v) s = unlocked { s.cfg with chunk := v } ∧
    exec (.regWr 0x04 v) s = unlocked { s.cfg with rto := v } ∧
    exec (.regWr 0x05 v) s = unlocked { s.cfg with poll := v } ∧
    exec (.regWr 0x06 v) s = unlocked { s.cfg with inLen := v } ∧
    exec (.regWr 0x07 v) s = exec (decodeOpcode (v.extractLsb' 0 8)) s ∧
    exec (.regWr 0x0A v) s =
      .next { s with irqEn := { doneIe := v.getLsbD 0, errIe := v.getLsbD 1 } } ∧
    exec (.regWr 0x14 v) s = .next { s with codec := { s.codec with fType := v } } ∧
    exec (.regWr 0x15 v) s = .next { s with codec := { s.codec with fSeq := v } } ∧
    exec (.regWr 0x16 v) s = .next { s with codec := { s.codec with fLen := v } } ∧
    exec (.regWr 0x17 v) s = .next { s with codec := { s.codec with fCsum := v } } ∧
    exec (.regWr 0x18 v) s = .next { s with codec := { s.codec with fFlen := v } } ∧
    ∀ i : BitVec 8, i ∉ [0x01, 0x02, 0x03, 0x04, 0x05, 0x06, 0x07, 0x0A, 0x14, 0x15, 0x16, 0x17, 0x18#8] →
      exec (.regWr i v) s = .next s

/-- 10_state R48, the lock. -/
def Obligations.LockedWritesHaveNoEffect : Prop :=
  ∀ s : State, s.eng.running = true →
    (∀ (i : BitVec 8) (v : Word), i ∈ [0x01, 0x02, 0x03, 0x04, 0x05, 0x06#8] →
      exec (.regWr i v) s = .next s) ∧
    ∀ (off : Word) (v : Byte), exec (.bufWr 0 off v) s = .next s

/-- 20_memory R81, 46_host_control R318: what a buffer access reads and writes, byte by byte. That the byte
read is kept in `rdata` is the model's choice (log 3). -/
def Obligations.BufferAccess : Prop :=
  ∀ (s : State) (code : BitVec 2) (off : Word) (v : Byte),
    exec (.bufRd code off) s = .next { s with rdata := BitVec.setWidth 32 (
      if code = 0 ∧ off.toNat < s.build.inCap then s.inbuf.read off.toNat
      else if code = 1 ∧ off.toNat < s.build.outCap ∧ off.toNat < s.eng.outLen.toNat then
        s.outbuf.read off.toNat
      else if code = 2 ∧ off.toNat < 2048 then s.fbuf.read off.toNat
      else 0) } ∧
    ∃ t, exec (.bufWr code off v) s = .next t ∧
      (∀ a, t.inbuf.read a =
        if code = 0 ∧ a = off.toNat ∧ a < s.build.inCap ∧ s.eng.running = false then v
        else s.inbuf.read a) ∧
      (∀ a, t.fbuf.read a = if code = 2 ∧ a = off.toNat ∧ a < 2048 then v else s.fbuf.read a) ∧
      t = { s with inbuf := t.inbuf, fbuf := t.fbuf }

/-! ## Received frames -/

/-- 46_host_control R321: frames do nothing while no connection runs. -/
def Obligations.FramesAreIgnoredWhileNotRunning : Prop :=
  ∀ s : State, s.eng.running = false →
    (∀ f : RxFrame, exec (.rxStart f) s = .next s ∧ exec (.rxEnd f) s = .next s ∧
      exec (.rxData f) s = .next s ∧ exec (.rxAck f) s = .next s) ∧
    ∀ g : RxOther, exec (.rxReserved g) s = .next s

/-- 42_handshake R203, R205: a listening receiver answers an accepted START and drops every other frame. -/
def Obligations.ListeningReceiverTakesStartOnly : Prop :=
  ∀ s : State, s.eng.running = true → s.cfg.role = .receiver → s.eng.hs = .idle →
    (∀ f : RxFrame, exec (.rxStart f) s = .next
      (if (parsedRx 0 f).ok = true ∨ s.cfg.verifyStart = false then
        { s with tx := s.tx ++ [ackF (if s.cfg.mode = .cumulative then 1 else 0)],
                 eng := { s.eng with hs := .established } }
      else s)) ∧
    (∀ f : RxFrame, exec (.rxEnd f) s = .next s ∧ exec (.rxData f) s = .next s ∧
      exec (.rxAck f) s = .next s) ∧
    ∀ g : RxOther, WellFormed (.rxReserved g) = true → exec (.rxReserved g) s = .next s

/-- 42_handshake R204, R205: every accepted START is answered again, with no state change. -/
def Obligations.DuplicateStartIsAnsweredAgain : Prop :=
  ∀ (s : State) (f : RxFrame),
    s.eng.running = true → s.cfg.role = .receiver → s.eng.hs = .established →
    exec (.rxStart f) s = .next
      (if (parsedRx 0 f).ok = true ∨ s.cfg.verifyStart = false then
        { s with tx := s.tx ++ [ackF (if s.cfg.mode = .cumulative then 1 else 0)] }
      else s)

/-- 42_handshake R201, R202: a valid END with the expected number is acknowledged and closes; any other is
answered with the expected number and changes nothing. -/
def Obligations.ValidEndClosesOrIsAnswered : Prop :=
  ∀ (s : State) (f : RxFrame),
    s.eng.running = true → s.cfg.role = .receiver → s.eng.hs = .established → (parsedRx 1 f).ok = true →
    exec (.rxEnd f) s = .next
      (if f.seq = s.eng.expected then { s with
        tx := s.tx ++ [ackF f.seq]
        eng := { s.eng with hs := .closed, running := false, done := true } }
      else { s with tx := s.tx ++ [ackF s.eng.expected] })

/-- 42_handshake R206: what an ESTABLISHED receiver drops with no reply. -/
def Obligations.EstablishedReceiverDrops : Prop :=
  ∀ s : State, s.eng.running = true → s.cfg.role = .receiver → s.eng.hs = .established →
    (∀ f : RxFrame, exec (.rxAck f) s = .next s) ∧
    (∀ f : RxFrame, (parsedRx 1 f).ok = false → exec (.rxEnd f) s = .next s) ∧
    (∀ f : RxFrame, (parsedRx 2 f).ok = false → exec (.rxData f) s = .next s) ∧
    (∀ f : RxFrame, (parsedRx 0 f).ok = false → s.cfg.verifyStart = true →
      exec (.rxStart f) s = .next s) ∧
    ∀ g : RxOther, WellFormed (.rxReserved g) = true → exec (.rxReserved g) s = .next s

/-- 42_handshake R198: what a running sender drops; in the selective data phase such a frame only ends the
poll (44_sender_selective R254). -/
def Obligations.SenderDropsOtherFrames : Prop :=
  ∀ s : State, s.eng.running = true → s.cfg.role = .sender →
    let after : State :=
      if s.eng.hs = .established ∧ s.cfg.mode = .selective then selectiveContinue (selectiveSlide s) else s
    (∀ f : RxFrame, exec (.rxStart f) s = .next after ∧ exec (.rxEnd f) s = .next after ∧
      exec (.rxData f) s = .next after) ∧
    (∀ f : RxFrame, (parsedRx 3 f).ok = false → exec (.rxAck f) s = .next after) ∧
    ∀ g : RxOther, WellFormed (.rxReserved g) = true → exec (.rxReserved g) s = .next after

/-! ## The receiver -/

/-- 45_receiver_reorder R283, R286, R288: case B stores the packet unless it is held, and ACKs. -/
def Obligations.AheadDataIsBufferedOnce : Prop :=
  ∀ (s : State) (f : RxFrame),
    s.eng.running = true → s.cfg.role = .receiver → s.eng.hs = .established →
    (parsedRx 2 f).ok = true → s.eng.expected.toNat < f.seq.toNat →
    f.seq.toNat < s.eng.expected.toNat + s.cfg.window.toNat →
    ∃ t, exec (.rxData f) s = .next t ∧
      (∀ k, Store.find? t.eng.rbuf k =
        if k = f.seq.toNat ∧ Store.find? s.eng.rbuf k = none then some f.payload
        else Store.find? s.eng.rbuf k) ∧
      t = { s with
        tx := s.tx ++ [ackF (if s.cfg.mode = .cumulative then s.eng.expected else f.seq)]
        eng := { s.eng with rbuf := t.eng.rbuf } }

/-- 45_receiver_reorder R284 to R286, R289: cases C and D drop the payload; cumulative mode still ACKs the
expected number, selective mode ACKs the number of case C and nothing in case D. -/
def Obligations.DroppedDataIsAnswered : Prop :=
  ∀ (s : State) (f : RxFrame),
    s.eng.running = true → s.cfg.role = .receiver → s.eng.hs = .established →
    (parsedRx 2 f).ok = true →
    (f.seq.toNat < s.eng.expected.toNat → exec (.rxData f) s = .next { s with
      tx := s.tx ++ [ackF (if s.cfg.mode = .cumulative then s.eng.expected else f.seq)] }) ∧
    (s.eng.expected.toNat + s.cfg.window.toNat ≤ f.seq.toNat → f.seq ≠ s.eng.expected →
      exec (.rxData f) s = .next { s with
        tx := s.tx ++ (if s.cfg.mode = .cumulative then [ackF s.eng.expected] else []) })

/-- 45_receiver_reorder R281, R282, R286, R287: case A delivers the packet and the run `ps` of buffered
packets that follows it, in order, and ACKs. EXPECTED and the numbers of the run go past 2^32 − 1 to 0. -/
def Obligations.InOrderDataDeliversTheRun : Prop :=
  ∀ (s : State) (f : RxFrame) (ps : List Bytes),
    s.eng.running = true → s.cfg.role = .receiver → s.eng.hs = .established →
    (parsedRx 2 f).ok = true → f.seq = s.eng.expected →
    let past (j : Nat) : Word := s.eng.expected + BitVec.ofNat 32 (1 + j)
    let out : Bytes := f.payload ++ ps.flatten
    (∀ j, j < ps.length → Store.find? s.eng.rbuf (past j).toNat = ps[j]?) →
    Store.find? s.eng.rbuf (past ps.length).toNat = none →
    s.eng.outLen.toNat + out.length < 2 ^ 32 →
    s.eng.outLen.toNat + out.length ≤ s.build.outCap →
    ∃ t, exec (.rxData f) s = .next t ∧
      (∀ a, t.outbuf.read a =
        if s.eng.outLen.toNat ≤ a ∧ a < s.eng.outLen.toNat + out.length then
          out.getD (a - s.eng.outLen.toNat) 0
        else s.outbuf.read a) ∧
      (∀ j, j < ps.length → Store.find? t.eng.rbuf (past j).toNat = none) ∧
      (∀ k, (∀ j, j < ps.length → k ≠ (past j).toNat) →
        Store.find? t.eng.rbuf k = Store.find? s.eng.rbuf k) ∧
      t = { s with
        outbuf := t.outbuf
        tx := s.tx ++ [ackF (if s.cfg.mode = .cumulative then past ps.length else f.seq)]
        eng := { s.eng with
          outLen := BitVec.ofNat 32 (s.eng.outLen.toNat + out.length), expected := past ps.length,
          rbuf := t.eng.rbuf } }

/-- 20_memory R83, 60_exceptions R343: an arriving packet that does not fit faults, with no ACK. Where it
fits, and so do the packets `ps` of the drain after it but not the next one, those stay delivered, the fault
records the next number, and its packet is neither written nor removed from the buffer (R343's words, on the
drain of 45_receiver_reorder R282; log 7). -/
def Obligations.OverflowingDeliveryFaults : Prop :=
  ∀ (s : State) (f : RxFrame),
    s.eng.running = true → s.cfg.role = .receiver → s.eng.hs = .established →
    (parsedRx 2 f).ok = true → f.seq = s.eng.expected →
    let past (j : Nat) : Word := s.eng.expected + BitVec.ofNat 32 (1 + j)
    (s.build.outCap < s.eng.outLen.toNat + f.payload.length →
      exec (.rxData f) s = .next { s with eng := { s.eng with
        err := .outOverflow, errInfo := f.seq, fault := true, running := false } }) ∧
    ∀ (ps : List Bytes) (p : Bytes),
      let out : Bytes := f.payload ++ ps.flatten
      ps.length < 2 ^ 32 →
      (∀ j, j < ps.length → Store.find? s.eng.rbuf (past j).toNat = ps[j]?) →
      Store.find? s.eng.rbuf (past ps.length).toNat = some p →
      s.eng.outLen.toNat + out.length < 2 ^ 32 →
      s.eng.outLen.toNat + out.length ≤ s.build.outCap →
      s.build.outCap < s.eng.outLen.toNat + out.length + p.length →
      ∃ t, exec (.rxData f) s = .next t ∧
        (∀ a, t.outbuf.read a =
          if s.eng.outLen.toNat ≤ a ∧ a < s.eng.outLen.toNat + out.length then
            out.getD (a - s.eng.outLen.toNat) 0
          else s.outbuf.read a) ∧
        (∀ j, j < ps.length → Store.find? t.eng.rbuf (past j).toNat = none) ∧
        Store.find? t.eng.rbuf (past ps.length).toNat = some p ∧
        (∀ k, (∀ j, j < ps.length → k ≠ (past j).toNat) →
          Store.find? t.eng.rbuf k = Store.find? s.eng.rbuf k) ∧
        t = { s with
          outbuf := t.outbuf
          eng := { s.eng with
            outLen := BitVec.ofNat 32 (s.eng.outLen.toNat + out.length), expected := past ps.length,
            rbuf := t.eng.rbuf, err := .outOverflow, errInfo := past ps.length, fault := true,
            running := false } }

/-! ## The sender -/

/-- 43_sender_cumulative R222, 42_handshake R193: START_ACK opens the first window; another number is
dropped. -/
def Obligations.StartAckOpensTheFirstWindow : Prop :=
  ∀ (s : State) (f : RxFrame),
    s.eng.running = true → s.cfg.role = .sender → s.cfg.mode = .cumulative →
    s.eng.hs = .establishing → (parsedRx 3 f).ok = true →
    let w : Nat := min (1 + s.cfg.window.toNat) s.eng.endSeq.toNat
    exec (.rxAck f) s = .next
      (if f.seq ≠ 1 then s
      else if s.eng.endSeq = 1 then { s with
        tx := s.tx ++ [endF 1]
        eng := { s.eng with hs := .closing, base := 1, nextAck := 2, waitStart := s.now } }
      else { s with
        tx := s.tx ++ (List.range' 1 (w - 1)).map (dataF s)
        eng := { s.eng with hs := .established, base := 1, nextAck := 2,
                            sentHi := BitVec.ofNat 32 w, waitStart := s.now } })

/-- 44_sender_selective R251, 42_handshake R193: from the empty tables RUN leaves, START_ACK sends every
packet of the first window; another number is dropped. -/
def Obligations.StartAckOpensTheFirstPass : Prop :=
  ∀ (s : State) (f : RxFrame),
    s.eng.running = true → s.cfg.role = .sender → s.cfg.mode = .selective →
    s.eng.hs = .establishing → (parsedRx 3 f).ok = true →
    (∀ q, slotOf s q = { acked := false, sent := false, timer := 0 }) →
    let w : Nat := min s.cfg.window.toNat s.eng.endSeq.toNat
    (f.seq ≠ 0 → exec (.rxAck f) s = .next s) ∧
    (f.seq = 0 → s.eng.endSeq = 0 → exec (.rxAck f) s = .next { s with
      tx := s.tx ++ [endF 0]
      eng := { s.eng with hs := .closing, base := 0, waitStart := s.now } }) ∧
    (f.seq = 0 → s.eng.endSeq ≠ 0 → ∃ t, exec (.rxAck f) s = .next t ∧
      (∀ q, slotOf t q =
        if q < w then { acked := false, sent := true, timer := s.now }
        else { acked := false, sent := false, timer := 0 }) ∧
      t = { s with
        tx := s.tx ++ (List.range w).map (dataF s)
        eng := { s.eng with
          hs := .established, base := 0, slots := t.eng.slots, pollStart := s.now } })

/-- 43_sender_cumulative R223, R224. Where `a + 1` is 2^32, that NEXT_ACK is a free
value is the model's choice (log 8). -/
def Obligations.CumulativeAckAdvancesTheWindow : Prop :=
  ∀ (s : State) (f : RxFrame),
    s.eng.running = true → s.cfg.role = .sender → s.cfg.mode = .cumulative →
    s.eng.hs = .established → (parsedRx 3 f).ok = true →
    let wend : Nat := min (s.eng.base.toNat + s.cfg.window.toNat) s.eng.endSeq.toNat
    let w2 : Nat := min (f.seq.toNat + s.cfg.window.toNat) s.eng.endSeq.toNat
    exec (.rxAck f) s = .next
      (if s.eng.nextAck.toNat ≤ f.seq.toNat ∧ f.seq.toNat ≤ wend then
        if f.seq = s.eng.endSeq then { s with
          tx := s.tx ++ [endF s.eng.endSeq]
          eng := { s.eng with
            hs := .closing, base := f.seq, nextAck := addWord f.seq 1, waitStart := s.now } }
        else { s with
          tx := s.tx ++ (List.range' s.eng.sentHi.toNat (w2 - s.eng.sentHi.toNat)).map (dataF s)
          eng := { s.eng with
            base := f.seq, nextAck := addWord f.seq 1,
            sentHi := BitVec.ofNat 32 (max s.eng.sentHi.toNat w2), waitStart := s.now } }
      else s)

/-- 42_handshake R196. -/
def Obligations.EndAckCloses : Prop :=
  ∀ (s : State) (f : RxFrame),
    s.eng.running = true → s.cfg.role = .sender → s.eng.hs = .closing → (parsedRx 3 f).ok = true →
    exec (.rxAck f) s = .next
      (if f.seq = s.eng.endSeq then
        { s with eng := { s.eng with hs := .closed, running := false, done := true } }
      else s)

/-- 44_sender_selective R252, R254: a valid ACK in range is marked, then the slide and the pass run; once
every packet is acknowledged END is sent. -/
def Obligations.SelectiveAckEndsThePoll : Prop :=
  ∀ (s : State) (f : RxFrame),
    s.eng.running = true → s.cfg.role = .sender → s.cfg.mode = .selective →
    s.eng.hs = .established → (parsedRx 3 f).ok = true →
    let wend : Nat := min (s.eng.base.toNat + s.cfg.window.toNat) s.eng.endSeq.toNat
    ∃ m : State,
      (∀ q, slotOf m q =
        if q = f.seq.toNat ∧ s.eng.base.toNat ≤ q ∧ q < wend then { slotOf s q with acked := true }
        else slotOf s q) ∧
      m = { s with eng := { s.eng with slots := m.eng.slots } } ∧
      let u : State := selectiveSlide m
      exec (.rxAck f) s = .next
        (if u.eng.base = u.eng.endSeq then { u with
          tx := u.tx ++ [endF u.eng.endSeq]
          eng := { u.eng with hs := .closing, waitStart := u.now } }
        else { sendPass u with eng := { (sendPass u).eng with pollStart := u.now } })

/-- 44_sender_selective R253: the base slides past the contiguous run of acknowledged packets, no further
than the END number. That the table, kept by number, clears the entries passed is the model's choice (log 6;
10_state R52). -/
def Obligations.SlideStopsAtTheFirstUnacknowledged : Prop :=
  ∀ s : State, s.eng.base.toNat ≤ s.eng.endSeq.toNat →
    let t := selectiveSlide s
    s.eng.base.toNat ≤ t.eng.base.toNat ∧ t.eng.base.toNat ≤ s.eng.endSeq.toNat ∧
    (∀ q, s.eng.base.toNat ≤ q → q < t.eng.base.toNat → (slotOf s q).acked = true) ∧
    (t.eng.base = s.eng.endSeq ∨ (slotOf s t.eng.base.toNat).acked = false) ∧
    (∀ q, slotOf t q =
      if s.eng.base.toNat ≤ q ∧ q < t.eng.base.toNat then
        { acked := false, sent := false, timer := 0 }
      else slotOf s q) ∧
    t = { s with eng := { s.eng with base := t.eng.base, slots := t.eng.slots } }

/-- 44_sender_selective R255: the pass sends exactly the due packets of the window, in increasing order,
and stamps them. -/
def Obligations.SendPassSendsTheDuePackets : Prop :=
  ∀ s : State,
    let b : Nat := s.eng.base.toNat
    let wend : Nat := min (b + s.cfg.window.toNat) s.eng.endSeq.toNat
    let due (q : Nat) : Bool := !(slotOf s q).acked &&
      (!(slotOf s q).sent || decide (s.cfg.rto.toNat < (s.now - (slotOf s q).timer).toNat))
    let t := sendPass s
    (∀ q, slotOf t q =
      if b ≤ q ∧ q < wend ∧ due q = true then { slotOf s q with sent := true, timer := s.now }
      else slotOf s q) ∧
    t = { s with
      tx := s.tx ++ ((List.range' b (wend - b)).filter due).map (dataF s)
      eng := { s.eng with slots := t.eng.slots } }

/-! ## TX rows, TICK -/

/-- 30_encoding R115, 20_memory R95: each TX row appends its frame to the port (that they are instructions
of the model is log 11), and the engine's DATA packet `q` carries its chunk of the input (at or past
ORIGIN + total, where R95 gives no payload, the formula is the model's choice, log 13). -/
def Obligations.TxRowsEmitTheirFrames : Prop :=
  ∀ s : State,
    exec .txStart s = .next { s with tx := s.tx ++ [encodeFrame 0 0 []] } ∧
    (∀ e, exec (.txEnd e) s = .next { s with tx := s.tx ++ [encodeFrame 1 e []] }) ∧
    (∀ q p, exec (.txData q p) s = .next { s with tx := s.tx ++ [encodeFrame 2 q p] }) ∧
    (∀ a, exec (.txAck a) s = .next { s with tx := s.tx ++ [encodeFrame 3 a []] }) ∧
    ∀ q : Nat,
      let o : Nat := if s.cfg.mode = .cumulative then 1 else 0
      let off : Nat := (q - o) * s.cfg.chunk.toNat
      let n : Nat := min s.cfg.chunk.toNat (s.cfg.inLen.toNat - off)
      o ≤ q → dataF s q =
        encodeFrame 2 (BitVec.ofNat 32 q) ((List.range n).map fun i => s.inbuf.read (off + i))

/-- 46_host_control R320; 42_handshake R194, R197; 43 R225; 44 R257. -/
def Obligations.TickRunsOneTimerRule : Prop :=
  ∀ s : State,
    let n : Word := s.now + 1
    let u : State := { s with now := n }
    exec .tick s = .next
      (if s.eng.running = false ∨ s.cfg.role = .receiver then u
      else match s.eng.hs with
        | .establishing =>
          if s.cfg.rto.toNat ≤ (n - s.eng.waitStart).toNat then
            { u with tx := s.tx ++ [startF], eng := { s.eng with waitStart := n } }
          else u
        | .established =>
          match s.cfg.mode with
          | .cumulative =>
            if s.cfg.rto.toNat ≤ (n - s.eng.waitStart).toNat then
              { u with
                tx := s.tx ++ (List.range' s.eng.base.toNat
                  (min (s.eng.base.toNat + s.cfg.window.toNat) s.eng.endSeq.toNat -
                    s.eng.base.toNat)).map (dataF s)
                eng := { s.eng with waitStart := n } }
            else u
          | .selective =>
            if s.cfg.poll.toNat ≤ (n - s.eng.pollStart).toNat then
              let v := sendPass (selectiveSlide u)
              { v with eng := { v.eng with pollStart := n } }
            else u
        | .closing =>
          if s.cfg.rto.toNat ≤ (n - s.eng.waitStart).toNat then
            { u with tx := s.tx ++ [endF s.eng.endSeq], eng := { s.eng with waitStart := n } }
          else u
        | .idle => u
        | .closed => u)

/-! ## The whole machine -/

/-- 10_state R43: NOW is incremented by TICK, cleared by reset, and written by nothing else. -/
def Obligations.NowCountsTicksOnly : Prop :=
  ∀ (i : Instr) (s t : State), exec i s = .next t →
    t.now = if i = .tick then s.now + 1 else if i = .reset then 0 else s.now

/-- 46_host_control R313: a running connection's configuration and input never change, whatever the event,
but for a hardware reset. -/
def Obligations.RunningConnectionKeepsItsConfiguration : Prop :=
  ∀ (i : Instr) (s t : State), s.eng.running = true → i ≠ .reset → exec i s = .next t →
    t.cfg = s.cfg ∧ t.inbuf = s.inbuf

/-- 10_state R50: which events set and clear RUNNING, DONE, FAULT and F_VALID. -/
def Obligations.FlagsChangeOnlyByTheirEvents : Prop :=
  ∀ (i : Instr) (s t : State), WellFormed i = true → exec i s = .next t →
    (s.eng.running = false → t.eng.running = true → i = .run ∧ s.eng.fault = false) ∧
    (s.eng.running = true → t.eng.running = false →
      t.eng.done = true ∨ t.eng.fault = true ∨ i = .reset ∨ i = .softReset) ∧
    (s.eng.done = false → t.eng.done = true → t.eng.hs = .closed ∧ ∃ f, i = .rxEnd f ∨ i = .rxAck f) ∧
    (s.eng.done = true → t.eng.done = false → i = .run ∨ i = .reset ∨ i = .softReset) ∧
    (s.eng.fault = false → t.eng.fault = true → t.eng.err = .outOverflow ∧ ∃ f, i = .rxData f) ∧
    (s.eng.fault = true → t.eng.fault = false → i = .reset ∨ i = .softReset) ∧
    (t.codec.fValid ≠ s.codec.fValid → i = .verify ∨ i = .reset)

/-- 60_exceptions R350: the interrupt output in terms of STATUS and IRQ_EN as the host reads them. -/
def Obligations.InterruptFollowsStatus : Prop :=
  (∀ s : State, s.irq =
    (((readReg s 0x08).getLsbD 4 && (readReg s 0x0A).getLsbD 0) ||
      (decide ((readReg s 0x08).toNat / 256 % 16 ≠ 0) && (readReg s 0x0A).getLsbD 1))) ∧
  State.reset.irq = false

/-- Every event has a next state: no step faults and none is refused (93_implementation_defined, section 3;
60_exceptions R346). -/
def Obligations.EveryEventCompletes : Prop :=
  (∀ (i : Instr) (s : State), ∃ t, exec i s = .next t) ∧ ∀ s : State, SafeStep s

/-- 10_state R56, R58: the invariant holds at reset (that the build parameters are legal there is log 5). -/
def Obligations.InvariantHoldsAtReset : Prop := Inv State.reset

/-- 10_state R58, 42_handshake R190, 46_host_control R323: every step keeps the invariant. -/
def Obligations.StepKeepsTheInvariant : Prop :=
  ∀ s t : State, Inv s → step s = .next t → Inv t

/-- 20_memory R80: every step keeps the buffers in their canonical form and inside their sizes. -/
def Obligations.StepKeepsTheBuffersInBounds : Prop :=
  ∀ s t : State, MemoryOk s → step s = .next t → MemoryOk t

/-- 43_sender_cumulative R229, 44_sender_selective R259, 30_encoding R110, 41_codec R168: every frame a step
adds to the port is one of the four forms, 16 to 1472 bytes and valid, and a DATA frame is of the sender's
current window. -/
def Obligations.SentFramesStayInTheWindow : Prop :=
  ∀ (s t : State) (fs : List Bytes), Inv s → step s = .next t → t.tx = s.tx ++ fs →
    ∀ f ∈ fs, FrameValid f ∧ 16 ≤ f.length ∧ f.length ≤ 1472 ∧
      (f = startF ∨ (∃ e, f = endF e) ∨ (∃ a, f = ackF a) ∨
        ∃ q, t.eng.base.toNat ≤ q ∧ q < t.eng.base.toNat + t.cfg.window.toNat ∧
          q < t.eng.endSeq.toNat ∧ f = dataF t q)

/-! ## Two instances -/

/-- 60_exceptions R361: the instances share no state; an event at one leaves the other as it is, and the
channel's own choices change neither. -/
def Obligations.InstancesShareNoState : Prop :=
  ∀ (y : System) (e : Input) (i : Nat) (b : Bytes) (d : Side),
    (y.act (.event .left e)).right = y.right ∧ (y.act (.event .right e)).left = y.left ∧
    (y.act (.deliver .left i)).right = y.right ∧ (y.act (.deliver .right i)).left = y.left ∧
    (∀ a ∈ [SysAction.drop d i, .duplicate d i, .reorder d i, .corrupt d i b],
      (y.act a).left = y.left ∧ (y.act a).right = y.right)

/-- 46_host_control R325, 60_exceptions R362: RUN at a legally configured pair, the receiver first, starts a
transfer. -/
def Obligations.RunStartsATransfer : Prop :=
  ∀ a b : State, a.build.Legal → FlagsOk a → FlagsOk b →
    a.cfg.role = .sender → b.cfg.role = .receiver → a.cfg.mode = b.cfg.mode →
    ConfigLegal a → ConfigLegal b →
    a.eng.running = false → b.eng.running = false → a.eng.fault = false → b.eng.fault = false →
    a.tx = [] → b.tx = [] →
    Transfer (System.run { left := a, right := b, toLeft := [], toRight := [] }
      [.event .right (.reg true 0x07 1), .event .left (.reg true 0x07 1)])

/-- 60_exceptions R362, 45_receiver_reorder R290: ticks, host reads, delivery, loss, duplication and
reordering keep a transfer a transfer. -/
def Obligations.ChannelKeepsTheTransfer : Prop :=
  ∀ (y : System) (a : SysAction), Transfer y → Undisturbed a = true → Transfer (y.act a)

/-- 60_exceptions R362 items 1 to 3, the safety half: whenever the receiver of a transfer is done, its
output is the sender's input, byte for byte. -/
def Obligations.DoneReceiverHoldsTheInput : Prop :=
  ∀ (y : System) (as : List SysAction), Transfer y → (∀ a ∈ as, Undisturbed a = true) →
    let z := y.run as
    z.right.eng.done = true →
    z.right.eng.outLen = y.left.cfg.inLen ∧
    ∀ i, i < y.left.cfg.inLen.toNat → z.right.outbuf.read i = y.left.inbuf.read i
end

