-- ==== Sys2Proof/Laws/Codec.lean ====
section
/-! SUPPORT. The laws of byte order, the fold and the frame codec. -/

namespace Sys2Proof.Machine

@[simp] theorem be32_length (v : Word) : (be32 v).length = 4 := rfl

@[simp] theorem headerBytes_length (h : Header) : (headerBytes h).length = 16 := rfl

@[simp] theorem encodeFrame_length (t q : Word) (p : Bytes) : (encodeFrame t q p).length = 16 + p.length := by
  simp [encodeFrame]

/-- Four big-endian bytes read back. -/
theorem be32_bytes (v : Word) :
    v.extractLsb' 24 8 ++ v.extractLsb' 16 8 ++ v.extractLsb' 8 8 ++ v.extractLsb' 0 8 = v := by
  refine BitVec.eq_of_toNat_eq ?_
  have hv := v.isLt
  simp only [BitVec.toNat_append, BitVec.extractLsb'_toNat, Nat.shiftRight_eq_div_pow]
  rw [← Nat.shiftLeft_add_eq_or_of_lt (by omega), ← Nat.shiftLeft_add_eq_or_of_lt (by omega),
    ← Nat.shiftLeft_add_eq_or_of_lt (by omega)]
  simp only [Nat.shiftLeft_eq]
  omega

/-- The four fields of a header read back (30_encoding R113). -/
theorem rdBe32_headerBytes (h : Header) (p : Bytes) :
    rdBe32 (headerBytes h ++ p) 0 = h.type ∧ rdBe32 (headerBytes h ++ p) 4 = h.seq ∧
    rdBe32 (headerBytes h ++ p) 8 = h.length ∧ rdBe32 (headerBytes h ++ p) 12 = h.csum :=
  ⟨be32_bytes h.type, be32_bytes h.seq, be32_bytes h.length, be32_bytes h.csum⟩

/-- `decode` over a header and what follows it (41_codec R162). -/
theorem decodeFrame_headerBytes (h : Header) (p : Bytes) :
    decodeFrame (headerBytes h ++ p) = some (h, p.take (min h.length.toNat p.length)) := by
  obtain ⟨h0, h4, h8, h12⟩ := rdBe32_headerBytes h p
  have hd : (headerBytes h ++ p).drop hdrBytes = p :=
    List.drop_left' (headerBytes_length h)
  have hl : (headerBytes h ++ p).length - hdrBytes = p.length := by simp
  unfold decodeFrame
  rw [if_neg (by simp)]
  simp only [h0, h4, h8, h12, hd, hl]

/-- A fold's turn keeps the residue modulo 65535, and zero only at zero. -/
theorem foldTurn (x : Nat) :
    (x % 0x10000 + x / 0x10000) % 65535 = x % 65535 ∧ (x % 0x10000 + x / 0x10000 = 0 ↔ x = 0) := by
  omega

/-- With enough turns the loop ends in 16 bits, with the residue it began with. -/
theorem foldLoop_spec (fuel x : Nat) (h : x ≤ fuel) :
    foldLoop fuel x ≤ 0xFFFF ∧ foldLoop fuel x % 65535 = x % 65535 ∧ (foldLoop fuel x = 0 ↔ x = 0) := by
  induction fuel generalizing x with
  | zero => obtain rfl : x = 0 := by omega
            simp [foldLoop]
  | succ n ih =>
    unfold foldLoop
    split
    case isTrue hx =>
      obtain ⟨hm, hz⟩ := foldTurn x
      obtain ⟨h1, h2, h3⟩ := ih (x % 0x10000 + x / 0x10000) (by omega)
      exact ⟨h1, h2.trans hm, h3.trans hz⟩
    case isFalse hx => exact ⟨by omega, rfl, Iff.rfl⟩

/-- `fold16` is 16 bits, congruent to its argument modulo 65535, and zero only at zero. -/
theorem fold16_spec (x : Nat) : fold16 x ≤ 0xFFFF ∧ fold16 x % 65535 = x % 65535 ∧ (fold16 x = 0 ↔ x = 0) :=
  foldLoop_spec x x le_rfl

/-- The word sum of a sequence that begins with an even number of bytes. -/
theorem wordSum_append (a b : Bytes) (h : a.length % 2 = 0) : wordSum (a ++ b) = wordSum a + wordSum b := by
  induction a using wordSum.induct with
  | case1 => simp [wordSum]
  | case2 => simp at h
  | case3 x y rest ih =>
    simp only [List.cons_append, wordSum]
    rw [ih (by simp only [List.length_cons] at h; omega)]
    omega

@[simp] theorem validSeq_none (t : Word) : validSeq t none = none := rfl

theorem validSeq_some (t : Word) (f : Parsed) :
    validSeq t (some f) = if f.ok = true ∧ f.hdr.type = t then some f.hdr.seq else none := by
  simp only [validSeq, Bool.and_eq_true, beq_iff_eq]

end Sys2Proof.Machine
end

