-- ==== Sys2Proof/Laws/State.lean ====
section
/-! SUPPORT. What each named update of the state leaves in each field: one lemma per field per update, true
by rfl. -/

namespace Sys2Proof.Machine

@[simp] theorem emit_build (f : Bytes) (s : State) : (emit f s).build = s.build := rfl
@[simp] theorem emit_cfg (f : Bytes) (s : State) : (emit f s).cfg = s.cfg := rfl
@[simp] theorem emit_irqEn (f : Bytes) (s : State) : (emit f s).irqEn = s.irqEn := rfl
@[simp] theorem emit_now (f : Bytes) (s : State) : (emit f s).now = s.now := rfl
@[simp] theorem emit_eng (f : Bytes) (s : State) : (emit f s).eng = s.eng := rfl
@[simp] theorem emit_codec (f : Bytes) (s : State) : (emit f s).codec = s.codec := rfl
@[simp] theorem emit_inbuf (f : Bytes) (s : State) : (emit f s).inbuf = s.inbuf := rfl
@[simp] theorem emit_outbuf (f : Bytes) (s : State) : (emit f s).outbuf = s.outbuf := rfl
@[simp] theorem emit_fbuf (f : Bytes) (s : State) : (emit f s).fbuf = s.fbuf := rfl
@[simp] theorem emit_tx (f : Bytes) (s : State) : (emit f s).tx = s.tx ++ [f] := rfl
@[simp] theorem emit_rdata (f : Bytes) (s : State) : (emit f s).rdata = s.rdata := rfl
@[simp] theorem emit_inputs (f : Bytes) (s : State) : (emit f s).inputs = s.inputs := rfl

@[simp] theorem raiseError_build (c : ErrCode) (i : Word) (s : State) :
    (raiseError c i s).build = s.build := rfl
@[simp] theorem raiseError_cfg (c : ErrCode) (i : Word) (s : State) : (raiseError c i s).cfg = s.cfg := rfl
@[simp] theorem raiseError_irqEn (c : ErrCode) (i : Word) (s : State) :
    (raiseError c i s).irqEn = s.irqEn := rfl
@[simp] theorem raiseError_now (c : ErrCode) (i : Word) (s : State) : (raiseError c i s).now = s.now := rfl
@[simp] theorem raiseError_eng (c : ErrCode) (i : Word) (s : State) :
    (raiseError c i s).eng = { s.eng with err := c, errInfo := i } := rfl
@[simp] theorem raiseError_codec (c : ErrCode) (i : Word) (s : State) :
    (raiseError c i s).codec = s.codec := rfl
@[simp] theorem raiseError_inbuf (c : ErrCode) (i : Word) (s : State) :
    (raiseError c i s).inbuf = s.inbuf := rfl
@[simp] theorem raiseError_outbuf (c : ErrCode) (i : Word) (s : State) :
    (raiseError c i s).outbuf = s.outbuf := rfl
@[simp] theorem raiseError_fbuf (c : ErrCode) (i : Word) (s : State) :
    (raiseError c i s).fbuf = s.fbuf := rfl
@[simp] theorem raiseError_tx (c : ErrCode) (i : Word) (s : State) : (raiseError c i s).tx = s.tx := rfl
@[simp] theorem raiseError_rdata (c : ErrCode) (i : Word) (s : State) :
    (raiseError c i s).rdata = s.rdata := rfl
@[simp] theorem raiseError_inputs (c : ErrCode) (i : Word) (s : State) :
    (raiseError c i s).inputs = s.inputs := rfl

@[simp] theorem engineFault_build (c : ErrCode) (i : Word) (s : State) :
    (engineFault c i s).build = s.build := rfl
@[simp] theorem engineFault_cfg (c : ErrCode) (i : Word) (s : State) : (engineFault c i s).cfg = s.cfg := rfl
@[simp] theorem engineFault_irqEn (c : ErrCode) (i : Word) (s : State) :
    (engineFault c i s).irqEn = s.irqEn := rfl
@[simp] theorem engineFault_now (c : ErrCode) (i : Word) (s : State) : (engineFault c i s).now = s.now := rfl
@[simp] theorem engineFault_eng (c : ErrCode) (i : Word) (s : State) :
    (engineFault c i s).eng = { s.eng with err := c, errInfo := i, fault := true, running := false } := rfl
@[simp] theorem engineFault_codec (c : ErrCode) (i : Word) (s : State) :
    (engineFault c i s).codec = s.codec := rfl
@[simp] theorem engineFault_inbuf (c : ErrCode) (i : Word) (s : State) :
    (engineFault c i s).inbuf = s.inbuf := rfl
@[simp] theorem engineFault_outbuf (c : ErrCode) (i : Word) (s : State) :
    (engineFault c i s).outbuf = s.outbuf := rfl
@[simp] theorem engineFault_fbuf (c : ErrCode) (i : Word) (s : State) :
    (engineFault c i s).fbuf = s.fbuf := rfl
@[simp] theorem engineFault_tx (c : ErrCode) (i : Word) (s : State) : (engineFault c i s).tx = s.tx := rfl
@[simp] theorem engineFault_rdata (c : ErrCode) (i : Word) (s : State) :
    (engineFault c i s).rdata = s.rdata := rfl
@[simp] theorem engineFault_inputs (c : ErrCode) (i : Word) (s : State) :
    (engineFault c i s).inputs = s.inputs := rfl

@[simp] theorem clearError_build (s : State) : (clearError s).build = s.build := rfl
@[simp] theorem clearError_cfg (s : State) : (clearError s).cfg = s.cfg := rfl
@[simp] theorem clearError_irqEn (s : State) : (clearError s).irqEn = s.irqEn := rfl
@[simp] theorem clearError_now (s : State) : (clearError s).now = s.now := rfl
@[simp] theorem clearError_eng (s : State) :
    (clearError s).eng = { s.eng with err := .none, errInfo := 0 } := rfl
@[simp] theorem clearError_codec (s : State) : (clearError s).codec = s.codec := rfl
@[simp] theorem clearError_inbuf (s : State) : (clearError s).inbuf = s.inbuf := rfl
@[simp] theorem clearError_outbuf (s : State) : (clearError s).outbuf = s.outbuf := rfl
@[simp] theorem clearError_fbuf (s : State) : (clearError s).fbuf = s.fbuf := rfl
@[simp] theorem clearError_tx (s : State) : (clearError s).tx = s.tx := rfl
@[simp] theorem clearError_rdata (s : State) : (clearError s).rdata = s.rdata := rfl
@[simp] theorem clearError_inputs (s : State) : (clearError s).inputs = s.inputs := rfl

@[simp] theorem closeConnection_build (s : State) : (closeConnection s).build = s.build := rfl
@[simp] theorem closeConnection_cfg (s : State) : (closeConnection s).cfg = s.cfg := rfl
@[simp] theorem closeConnection_irqEn (s : State) : (closeConnection s).irqEn = s.irqEn := rfl
@[simp] theorem closeConnection_now (s : State) : (closeConnection s).now = s.now := rfl
@[simp] theorem closeConnection_eng (s : State) :
    (closeConnection s).eng = { s.eng with hs := .closed, running := false, done := true } := rfl
@[simp] theorem closeConnection_codec (s : State) : (closeConnection s).codec = s.codec := rfl
@[simp] theorem closeConnection_inbuf (s : State) : (closeConnection s).inbuf = s.inbuf := rfl
@[simp] theorem closeConnection_outbuf (s : State) : (closeConnection s).outbuf = s.outbuf := rfl
@[simp] theorem closeConnection_fbuf (s : State) : (closeConnection s).fbuf = s.fbuf := rfl
@[simp] theorem closeConnection_tx (s : State) : (closeConnection s).tx = s.tx := rfl
@[simp] theorem closeConnection_rdata (s : State) : (closeConnection s).rdata = s.rdata := rfl
@[simp] theorem closeConnection_inputs (s : State) : (closeConnection s).inputs = s.inputs := rfl

@[simp] theorem setSlot_build (q : Nat) (v : Slot) (s : State) : (setSlot q v s).build = s.build := rfl
@[simp] theorem setSlot_cfg (q : Nat) (v : Slot) (s : State) : (setSlot q v s).cfg = s.cfg := rfl
@[simp] theorem setSlot_irqEn (q : Nat) (v : Slot) (s : State) : (setSlot q v s).irqEn = s.irqEn := rfl
@[simp] theorem setSlot_now (q : Nat) (v : Slot) (s : State) : (setSlot q v s).now = s.now := rfl
@[simp] theorem setSlot_eng (q : Nat) (v : Slot) (s : State) :
    (setSlot q v s).eng = { s.eng with slots := Slots.write s.eng.slots q v } := rfl
@[simp] theorem setSlot_codec (q : Nat) (v : Slot) (s : State) : (setSlot q v s).codec = s.codec := rfl
@[simp] theorem setSlot_inbuf (q : Nat) (v : Slot) (s : State) : (setSlot q v s).inbuf = s.inbuf := rfl
@[simp] theorem setSlot_outbuf (q : Nat) (v : Slot) (s : State) : (setSlot q v s).outbuf = s.outbuf := rfl
@[simp] theorem setSlot_fbuf (q : Nat) (v : Slot) (s : State) : (setSlot q v s).fbuf = s.fbuf := rfl
@[simp] theorem setSlot_tx (q : Nat) (v : Slot) (s : State) : (setSlot q v s).tx = s.tx := rfl
@[simp] theorem setSlot_rdata (q : Nat) (v : Slot) (s : State) : (setSlot q v s).rdata = s.rdata := rfl
@[simp] theorem setSlot_inputs (q : Nat) (v : Slot) (s : State) : (setSlot q v s).inputs = s.inputs := rfl

@[simp] theorem emitData_build (lo hi : Nat) (s : State) : (emitData lo hi s).build = s.build := rfl
@[simp] theorem emitData_cfg (lo hi : Nat) (s : State) : (emitData lo hi s).cfg = s.cfg := rfl
@[simp] theorem emitData_irqEn (lo hi : Nat) (s : State) : (emitData lo hi s).irqEn = s.irqEn := rfl
@[simp] theorem emitData_now (lo hi : Nat) (s : State) : (emitData lo hi s).now = s.now := rfl
@[simp] theorem emitData_eng (lo hi : Nat) (s : State) : (emitData lo hi s).eng = s.eng := rfl
@[simp] theorem emitData_codec (lo hi : Nat) (s : State) : (emitData lo hi s).codec = s.codec := rfl
@[simp] theorem emitData_inbuf (lo hi : Nat) (s : State) : (emitData lo hi s).inbuf = s.inbuf := rfl
@[simp] theorem emitData_outbuf (lo hi : Nat) (s : State) : (emitData lo hi s).outbuf = s.outbuf := rfl
@[simp] theorem emitData_fbuf (lo hi : Nat) (s : State) : (emitData lo hi s).fbuf = s.fbuf := rfl
@[simp] theorem emitData_tx (lo hi : Nat) (s : State) :
    (emitData lo hi s).tx = s.tx ++ (List.range' lo (hi - lo)).map (dataF s) := rfl
@[simp] theorem emitData_rdata (lo hi : Nat) (s : State) : (emitData lo hi s).rdata = s.rdata := rfl
@[simp] theorem emitData_inputs (lo hi : Nat) (s : State) : (emitData lo hi s).inputs = s.inputs := rfl

@[simp] theorem senderOpen_build (s : State) : (senderOpen s).build = s.build := rfl
@[simp] theorem senderOpen_cfg (s : State) : (senderOpen s).cfg = s.cfg := rfl
@[simp] theorem senderOpen_irqEn (s : State) : (senderOpen s).irqEn = s.irqEn := rfl
@[simp] theorem senderOpen_now (s : State) : (senderOpen s).now = s.now := rfl
@[simp] theorem senderOpen_eng (s : State) :
    (senderOpen s).eng = { s.eng with hs := .establishing, waitStart := s.now } := rfl
@[simp] theorem senderOpen_codec (s : State) : (senderOpen s).codec = s.codec := rfl
@[simp] theorem senderOpen_inbuf (s : State) : (senderOpen s).inbuf = s.inbuf := rfl
@[simp] theorem senderOpen_outbuf (s : State) : (senderOpen s).outbuf = s.outbuf := rfl
@[simp] theorem senderOpen_fbuf (s : State) : (senderOpen s).fbuf = s.fbuf := rfl
@[simp] theorem senderOpen_tx (s : State) : (senderOpen s).tx = s.tx ++ [startF] := rfl
@[simp] theorem senderOpen_rdata (s : State) : (senderOpen s).rdata = s.rdata := rfl
@[simp] theorem senderOpen_inputs (s : State) : (senderOpen s).inputs = s.inputs := rfl

@[simp] theorem closeEntry_build (s : State) : (closeEntry s).build = s.build := rfl
@[simp] theorem closeEntry_cfg (s : State) : (closeEntry s).cfg = s.cfg := rfl
@[simp] theorem closeEntry_irqEn (s : State) : (closeEntry s).irqEn = s.irqEn := rfl
@[simp] theorem closeEntry_now (s : State) : (closeEntry s).now = s.now := rfl
@[simp] theorem closeEntry_eng (s : State) :
    (closeEntry s).eng = { s.eng with hs := .closing, waitStart := s.now } := rfl
@[simp] theorem closeEntry_codec (s : State) : (closeEntry s).codec = s.codec := rfl
@[simp] theorem closeEntry_inbuf (s : State) : (closeEntry s).inbuf = s.inbuf := rfl
@[simp] theorem closeEntry_outbuf (s : State) : (closeEntry s).outbuf = s.outbuf := rfl
@[simp] theorem closeEntry_fbuf (s : State) : (closeEntry s).fbuf = s.fbuf := rfl
@[simp] theorem closeEntry_tx (s : State) : (closeEntry s).tx = s.tx ++ [endF s.eng.endSeq] := rfl
@[simp] theorem closeEntry_rdata (s : State) : (closeEntry s).rdata = s.rdata := rfl
@[simp] theorem closeEntry_inputs (s : State) : (closeEntry s).inputs = s.inputs := rfl

/-- The payload and the DATA frame of a packet depend on the configuration and INBUF only. -/
theorem dataF_congr {s t : State} (hc : t.cfg = s.cfg) (hi : t.inbuf = s.inbuf) : dataF t = dataF s := by
  funext q
  simp only [dataF, chunkOf, hc, hi]

end Sys2Proof.Machine
end

