-- ==== Sys2Proof/Laws/Store.lean ====
section
/-! SUPPORT. The laws of the sparse maps: read after write, the canonical form kept, bounds kept. -/

namespace Sys2Proof.Machine

variable {α : Type}

@[simp] theorem find?_nil (k : Nat) : Store.find? ([] : List (Nat × α)) k = none := rfl

theorem find?_insert (m : List (Nat × α)) (k j : Nat) (v : α) :
    Store.find? (Store.insert m k v) j = if j = k then some v else Store.find? m j := by
  induction m with
  | nil =>
    by_cases hj : j = k
    · subst hj; simp [Store.insert, Store.find?]
    · simp [Store.insert, Store.find?, hj, Ne.symm hj]
  | cons e rest ih =>
    obtain ⟨k', v'⟩ := e
    by_cases hj : j = k
    · subst hj
      by_cases hlt : j < k'
      · simp [Store.insert, Store.find?, hlt]
      · by_cases hk : j = k'
        · subst hk; simp [Store.insert, Store.find?]
        · simp [Store.insert, Store.find?, hlt, hk, Ne.symm hk, ih]
    · by_cases hlt : k < k'
      · simp [Store.insert, Store.find?, hlt, hj, Ne.symm hj]
      · by_cases hk : k = k'
        · subst hk; simp [Store.insert, Store.find?, hj, Ne.symm hj]
        · simp [Store.insert, Store.find?, hlt, hk, hj, ih]

theorem find?_erase (m : List (Nat × α)) (k j : Nat) :
    Store.find? (Store.erase m k) j = if j = k then none else Store.find? m j := by
  induction m with
  | nil => simp [Store.erase, Store.find?]
  | cons e rest ih =>
    obtain ⟨k', v'⟩ := e
    unfold Store.erase at ih ⊢
    by_cases hk : k' = k
    · subst hk
      by_cases hj : j = k'
      · subst hj; simpa using ih
      · simpa [Store.find?, hj, Ne.symm hj] using ih
    · by_cases hj : j = k
      · subst hj
        simpa [Store.find?, hk] using ih
      · simp [Store.find?, hk, hj, ih]

theorem mem_insert {m : List (Nat × α)} {k : Nat} {v : α} {e : Nat × α} (h : e ∈ Store.insert m k v) :
    e = (k, v) ∨ e ∈ m := by
  induction m with
  | nil => simpa [Store.insert] using h
  | cons d rest ih =>
    obtain ⟨k', v'⟩ := d
    unfold Store.insert at h
    split at h
    · simpa using h
    · split at h
      · simp only [List.mem_cons] at h ⊢; tauto
      · simp only [List.mem_cons] at h ⊢
        rcases h with h | h
        · exact .inr (.inl h)
        · rcases ih h with h | h <;> tauto

theorem mem_erase {m : List (Nat × α)} {k : Nat} {e : Nat × α} :
    e ∈ Store.erase m k ↔ e ∈ m ∧ e.1 ≠ k := by
  simp [Store.erase]

theorem sorted_insert {m : List (Nat × α)} (k : Nat) (v : α) (h : Store.Sorted m) :
    Store.Sorted (Store.insert m k v) := by
  induction m with
  | nil => simp [Store.insert, Store.Sorted]
  | cons d rest ih =>
    obtain ⟨k', v'⟩ := d
    have hcons := h
    simp only [Store.Sorted, List.map_cons, List.pairwise_cons, List.mem_map, forall_exists_index,
      and_imp, forall_apply_eq_imp_iff₂] at h
    obtain ⟨hhead, htail⟩ := h
    unfold Store.insert
    split
    case isTrue hlt =>
      refine List.pairwise_cons.2 ⟨fun a ha => ?_, hcons⟩
      simp only [List.map_cons, List.mem_cons, List.mem_map] at ha
      rcases ha with rfl | ⟨e, he, rfl⟩
      · exact hlt
      · exact lt_trans hlt (hhead e he)
    case isFalse hlt =>
      split
      case isTrue heq => subst heq; exact hcons
      case isFalse hne =>
        refine List.pairwise_cons.2 ⟨fun a ha => ?_, ih htail⟩
        simp only [List.mem_map] at ha
        obtain ⟨e, he, rfl⟩ := ha
        rcases mem_insert he with rfl | he
        · exact lt_of_le_of_ne (not_lt.1 hlt) (Ne.symm hne)
        · exact hhead e he

theorem sorted_erase {m : List (Nat × α)} (k : Nat) (h : Store.Sorted m) :
    Store.Sorted (Store.erase m k) :=
  h.sublist (List.filter_sublist.map Prod.fst)

/-- A stored key is found, with the value listed, where keys rise strictly. -/
theorem find?_eq_some_iff {m : List (Nat × α)} (h : Store.Sorted m) {k : Nat} {v : α} :
    Store.find? m k = some v ↔ (k, v) ∈ m := by
  induction m with
  | nil => simp
  | cons d rest ih =>
    obtain ⟨k', v'⟩ := d
    simp only [Store.Sorted, List.map_cons, List.pairwise_cons, List.mem_map, forall_exists_index,
      and_imp, forall_apply_eq_imp_iff₂] at h
    obtain ⟨hhead, htail⟩ := h
    by_cases hk : k' = k
    · subst hk
      simp only [Store.find?, if_true, Option.some.injEq, List.mem_cons, Prod.mk.injEq, true_and]
      exact ⟨fun e => .inl e.symm, fun e => e.elim Eq.symm fun hm => absurd (hhead _ hm) (lt_irrefl _)⟩
    · simp only [Store.find?, hk, if_false, List.mem_cons, Prod.mk.injEq, Ne.symm hk, false_and, false_or]
      exact ih htail

/-- Read after write, one byte. -/
theorem Memory.read_write (m : Memory) (a b : Nat) (v : Byte) :
    (m.write a v).read b = if b = a then v else m.read b := by
  unfold Memory.write Memory.read
  split
  case isTrue hv => subst hv; rw [find?_erase]; split <;> rfl
  case isFalse hv => rw [find?_insert]; split <;> rfl

/-- A write keeps the canonical form. -/
theorem Memory.wf_write {m : Memory} (a : Nat) (v : Byte) (h : Memory.wf m) : Memory.wf (m.write a v) := by
  unfold Memory.write
  split
  case isTrue hv => exact ⟨sorted_erase a h.1, fun c hc => h.2 c (mem_erase.1 hc).1⟩
  case isFalse hv =>
    refine ⟨sorted_insert a v h.1, fun c hc => ?_⟩
    rcases mem_insert hc with rfl | hc
    · exact hv
    · exact h.2 c hc

/-- A write lists no offset but its own and those listed before. -/
theorem Memory.mem_write {m : Memory} {a : Nat} {v : Byte} {c : Host.Cell} (h : c ∈ m.write a v) :
    c.1 = a ∨ c ∈ m := by
  unfold Memory.write at h
  split at h
  · exact .inr (mem_erase.1 h).1
  · rcases mem_insert h with rfl | h
    · exact .inl rfl
    · exact .inr h

/-- Read after a write of several bytes. -/
theorem Memory.read_writeBytes (b : Bytes) (m : Memory) (off a : Nat) :
    (m.writeBytes off b).read a =
      if off ≤ a ∧ a < off + b.length then b.getD (a - off) 0 else m.read a := by
  induction b generalizing m off with
  | nil => simp [Memory.writeBytes]
  | cons v rest ih =>
    rw [Memory.writeBytes, ih, Memory.read_write]
    rcases Nat.lt_trichotomy a off with h | rfl | h
    · rw [if_neg (by omega), if_neg (by omega), if_neg (by simp only [List.length_cons]; omega)]
    · rw [if_neg (by omega), if_pos rfl, if_pos (by simp only [List.length_cons]; omega)]; simp
    · obtain ⟨d, rfl⟩ : ∃ d, a = off + 1 + d := ⟨a - off - 1, by omega⟩
      have e1 : off + 1 + d - (off + 1) = d := by omega
      have e2 : off + 1 + d - off = d + 1 := by omega
      rw [if_neg (by omega : ¬ off + 1 + d = off), e1, e2]
      by_cases hd : d < rest.length
      · rw [if_pos (by omega), if_pos (by simp only [List.length_cons]; omega)]; simp
      · rw [if_neg (by omega), if_neg (by simp only [List.length_cons]; omega)]

theorem Memory.wf_writeBytes (b : Bytes) {m : Memory} (off : Nat) (h : Memory.wf m) :
    Memory.wf (m.writeBytes off b) := by
  induction b generalizing m off with
  | nil => exact h
  | cons v rest ih => exact ih (off + 1) (Memory.wf_write off v h)

/-- The buffers have the canonical form right after reset. -/
theorem Memory.wf_reset :
    Memory.wf State.reset.inbuf ∧ Memory.wf State.reset.outbuf ∧ Memory.wf State.reset.fbuf := by
  simp [State.reset, Memory.wf, Store.Sorted]

/-- A write of several bytes lists no offset but its own and those listed before. -/
theorem Memory.mem_writeBytes (b : Bytes) {m : Memory} {off : Nat} {c : Host.Cell}
    (h : c ∈ m.writeBytes off b) : (off ≤ c.1 ∧ c.1 < off + b.length) ∨ c ∈ m := by
  induction b generalizing m off with
  | nil => exact .inr h
  | cons v rest ih =>
    rcases ih h with h | h
    · left; simp only [List.length_cons]; omega
    · rcases Memory.mem_write h with h | h
      · left; simp only [List.length_cons]; omega
      · exact .inr h

theorem Memory.readBytes_eq_map (m : Memory) (off n : Nat) :
    m.readBytes off n = (List.range n).map fun i => m.read (off + i) := by
  induction n generalizing off with
  | zero => rfl
  | succ n ih =>
    rw [Memory.readBytes, ih, List.range_succ_eq_map]
    simp only [List.map_cons, List.map_map, Nat.add_zero]
    congr 1
    refine List.map_congr_left fun i _ => ?_
    rw [Function.comp_apply, Nat.add_assoc, Nat.add_comm 1 i]

@[simp] theorem Memory.length_readBytes (m : Memory) (off n : Nat) : (m.readBytes off n).length = n := by
  rw [Memory.readBytes_eq_map]; simp

/-- Read after write, one table entry. -/
theorem Slots.read_write (m : List (Nat × Slot)) (q p : Nat) (v : Slot) :
    Slots.read (Slots.write m q v) p = if p = q then v else Slots.read m p := by
  unfold Slots.write Slots.read
  split
  case isTrue hv => subst hv; rw [find?_erase]; split <;> rfl
  case isFalse hv => rw [find?_insert]; split <;> rfl

theorem Slots.sorted_write {m : List (Nat × Slot)} (q : Nat) (v : Slot) (h : Store.Sorted m) :
    Store.Sorted (Slots.write m q v) := by
  unfold Slots.write
  split
  · exact sorted_erase q h
  · exact sorted_insert q v h

theorem Slots.mem_write {m : List (Nat × Slot)} {q : Nat} {v : Slot} {e : Nat × Slot}
    (h : e ∈ Slots.write m q v) : (e = (q, v) ∧ v ≠ Slot.empty) ∨ (e ∈ m ∧ (v = Slot.empty → e.1 ≠ q)) := by
  unfold Slots.write at h
  split at h
  case isTrue hv => exact .inr ⟨(mem_erase.1 h).1, fun _ => (mem_erase.1 h).2⟩
  case isFalse hv =>
    rcases mem_insert h with rfl | h
    · exact .inl ⟨rfl, hv⟩
    · exact .inr ⟨h, fun e => absurd e hv⟩

end Sys2Proof.Machine
end

