-- ==== Sys2Proof/Laws/Ops.lean ====
section
/-! SUPPORT. What the shared operations can do: what a sender's and a receiver's operations leave alone, one
turn of each loop, and the dispatch of a received frame. -/

namespace Sys2Proof.Machine

/-- All that a sender's operation changes is the engine and the TX port. -/
def SendsOnly (s t : State) : Prop := t = { s with eng := t.eng, tx := t.tx }

/-- All that a receiver's operation changes is the engine, the TX port and OUTBUF. -/
def ReceivesOnly (s t : State) : Prop := t = { s with eng := t.eng, tx := t.tx, outbuf := t.outbuf }

theorem SendsOnly.trans {s t u : State} (h : SendsOnly s t) (h' : SendsOnly t u) : SendsOnly s u := by
  unfold SendsOnly at *; rw [h', h]

theorem SendsOnly.ofEngine {s t : State} {e : Engine} (h : SendsOnly { s with eng := e } t) : SendsOnly s t := by
  unfold SendsOnly at *; rw [h]

theorem SendsOnly.receives {s t : State} (h : SendsOnly s t) : ReceivesOnly s t := by
  unfold SendsOnly at h; unfold ReceivesOnly; rw [h]

theorem ReceivesOnly.trans {s t u : State} (h : ReceivesOnly s t) (h' : ReceivesOnly t u) : ReceivesOnly s u := by
  unfold ReceivesOnly at *; rw [h', h]

/-! ## The handshake and the cumulative sender -/

theorem closeEntry_sendsOnly (s : State) : SendsOnly s (closeEntry s) := rfl

theorem startRetry_sendsOnly (s : State) : SendsOnly s (startRetry s) := by
  unfold startRetry; split <;> rfl

theorem endRetry_sendsOnly (s : State) : SendsOnly s (endRetry s) := by
  unfold endRetry; split <;> rfl

theorem cumulativeAdvance_sendsOnly (s : State) : SendsOnly s (cumulativeAdvance s) := by
  unfold cumulativeAdvance; split <;> rfl

theorem cumulativeStart_sendsOnly (s : State) : SendsOnly s (cumulativeStart s) := by
  unfold cumulativeStart; dsimp only; split <;> rfl

theorem cumulativeAck_sendsOnly (a : Word) (s : State) : SendsOnly s (cumulativeAck a s) := by
  unfold cumulativeAck; split
  · exact SendsOnly.ofEngine (cumulativeAdvance_sendsOnly _)
  · rfl

theorem cumulativeTimeout_sendsOnly (s : State) : SendsOnly s (cumulativeTimeout s) := by
  unfold cumulativeTimeout; split <;> rfl

theorem windowEnd_le (s : State) : windowEnd s ≤ s.eng.endSeq.toNat := Nat.min_le_right _ _

/-- The number of packets of an input is at most its number of bytes (43_sender_cumulative R220). -/
theorem packetCount_le (c : Cfg) (h : 1 ≤ c.chunk.toNat) : packetCount c ≤ c.inLen.toNat := by
  have : (c.inLen.toNat + c.chunk.toNat - 1) / c.chunk.toNat < c.inLen.toNat + 1 := by
    apply Nat.div_lt_of_lt_mul
    have := Nat.le_mul_of_pos_left c.inLen.toNat h
    rw [Nat.mul_add]; omega
  unfold packetCount; omega

theorem chunkOf_length_le (s : State) (q : Nat) : (chunkOf s q).length ≤ s.cfg.chunk.toNat := by
  unfold chunkOf; simp only [Memory.length_readBytes]; omega

/-! ## The selective sender -/

theorem slotOf_setSlot (s : State) (q p : Nat) (v : Slot) :
    slotOf (setSlot q v s) p = if p = q then v else slotOf s p := Slots.read_write _ _ _ _

theorem selectiveMark_sendsOnly (r : Option Parsed) (s : State) : SendsOnly s (selectiveMark r s) := by
  unfold selectiveMark; split
  · rfl
  · split <;> rfl

/-- One turn of the slide (44_sender_selective R253). -/
theorem slideLoop_turn (n : Nat) (s : State)
    (h : s.eng.base.toNat < s.eng.endSeq.toNat ∧ (slotOf s s.eng.base.toNat).acked = true) :
    slideLoop (n + 1) s = slideLoop n { s with eng := { s.eng with
      base := s.eng.base + 1, slots := Slots.write s.eng.slots s.eng.base.toNat Slot.empty } } := by
  rw [slideLoop, if_pos h]; rfl

theorem slideLoop_stop (n : Nat) (s : State)
    (h : ¬(s.eng.base.toNat < s.eng.endSeq.toNat ∧ (slotOf s s.eng.base.toNat).acked = true)) :
    slideLoop n s = s := by
  cases n with
  | zero => rfl
  | succ n => rw [slideLoop, if_neg h]

theorem slideLoop_sendsOnly (n : Nat) (s : State) : SendsOnly s (slideLoop n s) := by
  induction n generalizing s with
  | zero => rfl
  | succ n ih =>
    unfold slideLoop; split
    · exact SendsOnly.ofEngine (ih _)
    · rfl

/-- One packet of the send pass (44_sender_selective R255). -/
theorem sendSlot_spec (q : Nat) (s : State) :
    (∀ p, slotOf (sendSlot q s) p =
      if p = q ∧ sendDue s q = true then { slotOf s p with sent := true, timer := s.now } else slotOf s p) ∧
    sendSlot q s = { s with
      tx := s.tx ++ (if sendDue s q = true then [dataF s q] else [])
      eng := { s.eng with slots := (sendSlot q s).eng.slots } } := by
  unfold sendSlot
  split
  case isTrue h =>
    refine ⟨fun p => ?_, by simp [setSlot, emit]⟩
    rw [slotOf_setSlot]
    by_cases hp : p = q
    · subst hp; rw [if_pos rfl, if_pos ⟨rfl, h⟩]
    · rw [if_neg hp, if_neg (fun hh => hp hh.1)]; rfl
  case isFalse h => exact ⟨fun p => (if_neg (fun hh => h hh.2)).symm, by simp⟩

theorem sendLoop_sendsOnly (n q : Nat) (s : State) : SendsOnly s (sendLoop n q s) := by
  induction n generalizing q s with
  | zero => rfl
  | succ n ih =>
    have h : SendsOnly s (sendSlot q s) := by unfold sendSlot; split <;> rfl
    exact h.trans (ih _ _)

theorem selectiveContinue_sendsOnly (s : State) : SendsOnly s (selectiveContinue s) := by
  unfold selectiveContinue; split
  · rfl
  · exact (sendLoop_sendsOnly _ _ _).trans rfl

theorem pollFrame_sendsOnly (r : Option Parsed) (s : State) : SendsOnly s (pollFrame r s) :=
  ((selectiveMark_sendsOnly r s).trans (slideLoop_sendsOnly _ _)).trans (selectiveContinue_sendsOnly _)

theorem pollTimeout_sendsOnly (s : State) : SendsOnly s (pollTimeout s) := by
  unfold pollTimeout; split
  · exact ((slideLoop_sendsOnly _ _).trans (sendLoop_sendsOnly _ _ _)).trans rfl
  · rfl

theorem rxSender_sendsOnly (r : Option Parsed) (s : State) : SendsOnly s (rxSender r s) := by
  unfold rxSender senderAck senderStartAck endAck
  split
  · exact pollFrame_sendsOnly r s
  · split
    · split
      · split
        · dsimp only; split
          · exact SendsOnly.ofEngine (cumulativeStart_sendsOnly _)
          · exact SendsOnly.ofEngine (SendsOnly.ofEngine (selectiveContinue_sendsOnly _))
        · rfl
      · exact cumulativeAck_sendsOnly _ _
      · split <;> rfl
      · rfl
      · rfl
    · rfl

theorem senderTimer_sendsOnly (s : State) : SendsOnly s (senderTimer s) := by
  unfold senderTimer
  split
  · exact startRetry_sendsOnly s
  · split
    · exact cumulativeTimeout_sendsOnly s
    · exact pollTimeout_sendsOnly s
  · exact endRetry_sendsOnly s
  · rfl
  · rfl

theorem addWord_of_lt {a : Word} {n : Nat} (h : a.toNat + n < 2 ^ 32) : addWord a n = a + BitVec.ofNat 32 n :=
  if_pos h

theorem addWord_toNat {a : Word} {n : Nat} (h : a.toNat + n < 2 ^ 32) : (addWord a n).toNat = a.toNat + n := by
  rw [addWord_of_lt h, BitVec.toNat_add, BitVec.toNat_ofNat]
  omega

/-! ## The receiver -/

/-- The state in which an operation that may meet the engine fault ends. -/
def Outcome.state : Except State State → State
  | .error s => s
  | .ok s => s

theorem deliver_receivesOnly (q : Word) (p : Bytes) (s : State) : ReceivesOnly s (Outcome.state (deliver q p s)) := by
  unfold deliver; split <;> rfl

theorem removeBuffered_receivesOnly (k : Nat) (s : State) : ReceivesOnly s (removeBuffered k s) := rfl

theorem keepUnfit_receivesOnly (rbuf : List (Nat × Bytes)) (s : State) : ReceivesOnly s (keepUnfit rbuf s) := rfl

/-- A turn of the drain that delivers (45_receiver_reorder R282). -/
theorem drainLoop_turn (n : Nat) (s : State) (p : Bytes)
    (hp : Store.find? s.eng.rbuf s.eng.expected.toNat = some p)
    (hc : s.eng.outLen.toNat + p.length ≤ s.build.outCap) :
    drainLoop (n + 1) s = drainLoop n { s with
      outbuf := s.outbuf.writeBytes s.eng.outLen.toNat p
      eng := { s.eng with
        outLen := addWord s.eng.outLen p.length, expected := s.eng.expected + 1,
        rbuf := Store.erase s.eng.rbuf s.eng.expected.toNat } } := by
  have hd : ¬ s.eng.outLen.toNat + p.length > s.build.outCap := by omega
  rw [drainLoop, hp]
  simp only [deliver, hd, if_false, removeBuffered]

/-- A turn of the drain that meets the engine fault, which leaves the buffer as it was
(45_receiver_reorder R281, R282; 60_exceptions R343). -/
theorem drainLoop_fault (n : Nat) (s : State) (p : Bytes)
    (hp : Store.find? s.eng.rbuf s.eng.expected.toNat = some p)
    (hc : s.build.outCap < s.eng.outLen.toNat + p.length) :
    drainLoop (n + 1) s = .error (engineFault .outOverflow s.eng.expected s) := by
  rw [drainLoop, hp]
  simp only [deliver, removeBuffered, gt_iff_lt, hc, if_true, keepUnfit, engineFault]

theorem drainLoop_stop (n : Nat) (s : State) (h : Store.find? s.eng.rbuf s.eng.expected.toNat = none) :
    drainLoop n s = .ok s := by
  cases n with
  | zero => rfl
  | succ n => rw [drainLoop, h]

theorem drainLoop_receivesOnly (n : Nat) (s : State) : ReceivesOnly s (Outcome.state (drainLoop n s)) := by
  induction n generalizing s with
  | zero => rfl
  | succ n ih =>
    unfold drainLoop
    split
    · rfl
    · rename_i p _
      have h := (removeBuffered_receivesOnly s.eng.expected.toNat s).trans
        (deliver_receivesOnly s.eng.expected p _)
      split
      · rename_i e; rw [e] at h; exact h.trans (keepUnfit_receivesOnly _ _)
      · rename_i e; rw [e] at h; exact h.trans (ih _)

/-- Removing a stored key leaves fewer entries. -/
theorem length_erase_lt {α : Type} {m : List (Nat × α)} {k : Nat} {v : α} (h : Store.find? m k = some v) :
    (Store.erase m k).length < m.length := by
  induction m with
  | nil => cases h
  | cons d rest ih =>
    obtain ⟨k', v'⟩ := d
    unfold Store.find? at h
    split at h
    · rename_i e
      subst e
      simp only [Store.erase, List.filter_cons, bne_self_eq_false, Bool.false_eq_true, if_false, List.length_cons]
      exact Nat.lt_succ_of_le (List.length_filter_le _ _)
    · rename_i e
      have hr := ih h
      unfold Store.erase at hr ⊢
      have hk : (k' != k) = true := by simpa using e
      simp only [List.filter_cons, hk, if_true, List.length_cons]
      omega

/-- With as many turns as entries, the drain ends at a number that is not buffered. -/
theorem drainLoop_ends (n : Nat) {s t : State} (hl : s.eng.rbuf.length ≤ n) (h : drainLoop n s = .ok t) :
    Store.find? t.eng.rbuf t.eng.expected.toNat = none := by
  induction n generalizing s with
  | zero =>
    cases h
    have e : t.eng.rbuf = [] := List.length_eq_zero_iff.1 (by omega)
    rw [e]; rfl
  | succ n ih =>
    unfold drainLoop at h
    cases hf : Store.find? s.eng.rbuf s.eng.expected.toNat with
    | none => rw [hf] at h; cases h; exact hf
    | some p =>
      rw [hf] at h; simp only at h
      split at h
      · cases h
      · rename_i s' e
        have hr : s'.eng.rbuf = Store.erase s.eng.rbuf s.eng.expected.toNat := by
          unfold deliver at e; split at e <;> cases e; rfl
        refine ih ?_ h
        have := length_erase_lt hf
        rw [hr]; omega

/-- A key with an entry is listed. -/
theorem mem_keys_of_find? {α : Type} {m : List (Nat × α)} {k : Nat} {v : α} (h : Store.find? m k = some v) :
    k ∈ m.map Prod.fst := by
  induction m with
  | nil => cases h
  | cons d rest ih =>
    unfold Store.find? at h
    split at h
    · rename_i e; exact List.mem_cons.2 (.inl e.symm)
    · exact List.mem_cons_of_mem _ (ih h)

/-- Different numbers less than 2^32 apart are different sequence numbers. -/
theorem seqAfter_inj {e : Word} {i j : Nat} (hi : i < 2 ^ 32) (hj : j < 2 ^ 32)
    (h : (e + BitVec.ofNat 32 i).toNat = (e + BitVec.ofNat 32 j).toNat) : i = j := by
  simp only [BitVec.toNat_add, BitVec.toNat_ofNat] at h
  omega

/-- A run of buffered packets is no longer than the buffer. -/
theorem length_run_le {m : List (Nat × Bytes)} {e : Word} (ps : List Bytes) (hl : ps.length ≤ 2 ^ 32)
    (h : ∀ j, j < ps.length → Store.find? m (e + BitVec.ofNat 32 j).toNat = ps[j]?) : ps.length ≤ m.length := by
  have hs : (List.range ps.length).map (fun j => (e + BitVec.ofNat 32 j).toNat) ⊆ m.map Prod.fst := by
    intro k hk
    obtain ⟨j, hj, rfl⟩ := List.mem_map.1 hk
    have hj := List.mem_range.1 hj
    exact mem_keys_of_find? ((h j hj).trans (List.getElem?_eq_getElem hj))
  have hn : ((List.range ps.length).map (fun j => (e + BitVec.ofNat 32 j).toNat)).Nodup := by
    refine List.Nodup.map_on (fun i hi j hj hij => ?_) List.nodup_range
    exact seqAfter_inj (by have := List.mem_range.1 hi; omega) (by have := List.mem_range.1 hj; omega) hij
  simpa using (hn.subperm hs).length_le

/-- A run that ends at a number with no entry is shorter than the sequence space: past it, it would repeat. -/
theorem length_run_lt {m : List (Nat × Bytes)} {e : Word} (ps : List Bytes)
    (h : ∀ j, j < ps.length → Store.find? m (e + BitVec.ofNat 32 (1 + j)).toNat = ps[j]?)
    (h0 : Store.find? m (e + BitVec.ofNat 32 (1 + ps.length)).toNat = none) : ps.length < 2 ^ 32 := by
  by_contra hl
  obtain ⟨k, hk⟩ := Nat.exists_eq_add_of_le (Nat.le_of_not_lt hl)
  have hlt : k < ps.length := by omega
  have e1 : (e + BitVec.ofNat 32 (1 + k)).toNat = (e + BitVec.ofNat 32 (1 + ps.length)).toNat := by
    rw [hk]; simp only [BitVec.toNat_add, BitVec.toNat_ofNat]; omega
  have h1 := h k hlt
  rw [e1, h0, List.getElem?_eq_getElem hlt] at h1
  cases h1

/-- The drain over a run `ps` of buffered packets that fits: they are delivered in order and leave the
buffer, and the drain goes on from there (45_receiver_reorder R281, R282). -/
theorem drainLoop_run (ps : List Bytes) : ∀ (n : Nat) (s : State), ps.length ≤ 2 ^ 32 →
    (∀ j, j < ps.length → Store.find? s.eng.rbuf (s.eng.expected + BitVec.ofNat 32 j).toNat = ps[j]?) →
    s.eng.outLen.toNat + ps.flatten.length < 2 ^ 32 →
    s.eng.outLen.toNat + ps.flatten.length ≤ s.build.outCap →
    ∃ t, drainLoop (ps.length + n) s = drainLoop n t ∧
      (∀ a, t.outbuf.read a =
        if s.eng.outLen.toNat ≤ a ∧ a < s.eng.outLen.toNat + ps.flatten.length then
          ps.flatten.getD (a - s.eng.outLen.toNat) 0
        else s.outbuf.read a) ∧
      (∀ j, j < ps.length →
        Store.find? t.eng.rbuf (s.eng.expected + BitVec.ofNat 32 j).toNat = none) ∧
      (∀ k, (∀ j, j < ps.length → k ≠ (s.eng.expected + BitVec.ofNat 32 j).toNat) →
        Store.find? t.eng.rbuf k = Store.find? s.eng.rbuf k) ∧
      t = { s with
        outbuf := t.outbuf
        eng := { s.eng with
          outLen := BitVec.ofNat 32 (s.eng.outLen.toNat + ps.flatten.length),
          expected := s.eng.expected + BitVec.ofNat 32 ps.length, rbuf := t.eng.rbuf } } := by
  induction ps with
  | nil =>
    intro n s _ _ _ _
    refine ⟨s, by simp, fun a => ?_, fun j hj => absurd hj (by simp), fun _ _ => rfl, by simp⟩
    rw [if_neg (by simp)]
  | cons p ps ih =>
    intro n s hl hj ho hc
    simp only [List.length_cons, List.flatten_cons, List.length_append] at *
    have hfirst := hj 0 (by omega)
    simp only [BitVec.add_zero, List.getElem?_cons_zero] at hfirst
    rw [show ps.length + 1 + n = ps.length + n + 1 by omega, drainLoop_turn _ s p hfirst (by omega)]
    set s1 : State := { s with
      outbuf := s.outbuf.writeBytes s.eng.outLen.toNat p
      eng := { s.eng with
        outLen := addWord s.eng.outLen p.length, expected := s.eng.expected + 1,
        rbuf := Store.erase s.eng.rbuf s.eng.expected.toNat } } with hs1
    have e1 (j : Nat) : s1.eng.expected + BitVec.ofNat 32 j = s.eng.expected + BitVec.ofNat 32 (j + 1) := by
      show s.eng.expected + 1 + BitVec.ofNat 32 j = _
      rw [Nat.add_comm j 1, BitVec.ofNat_add, BitVec.add_assoc]; rfl
    have e2 : s1.eng.outLen.toNat = s.eng.outLen.toNat + p.length := addWord_toNat (by omega)
    have e3 (k : Nat) : Store.find? s1.eng.rbuf k =
        if k = s.eng.expected.toNat then none else Store.find? s.eng.rbuf k := find?_erase _ _ _
    have e0 : s.eng.expected.toNat = (s.eng.expected + BitVec.ofNat 32 0).toNat := by simp
    have ne (j : Nat) (h : j < ps.length) :
        (s.eng.expected + BitVec.ofNat 32 (j + 1)).toNat ≠ s.eng.expected.toNat := by
      rw [e0]; intro h'; have := seqAfter_inj (by omega) (by omega) h'; omega
    obtain ⟨t, g1, g2, g3, g4, g5⟩ := ih n s1 (by omega)
      (fun j h => by rw [e1, e3, if_neg (ne j h), hj (j + 1) (by omega)]; rfl)
      (by omega) (by show _ ≤ s.build.outCap; omega)
    refine ⟨t, g1, fun a => ?_, fun j h => ?_, fun k h => ?_, ?_⟩
    · rw [g2, e2]
      have hw : s1.outbuf.read a =
          if s.eng.outLen.toNat ≤ a ∧ a < s.eng.outLen.toNat + p.length then
            p.getD (a - s.eng.outLen.toNat) 0
          else s.outbuf.read a := Memory.read_writeBytes _ _ _ _
      rw [hw]
      by_cases c1 : s.eng.outLen.toNat + p.length ≤ a ∧
          a < s.eng.outLen.toNat + p.length + ps.flatten.length
      · rw [if_pos c1, if_pos (by omega), List.getD_append_right _ _ _ _ (by omega)]
        congr 1; omega
      · rw [if_neg c1]
        by_cases c2 : s.eng.outLen.toNat ≤ a ∧ a < s.eng.outLen.toNat + p.length
        · rw [if_pos c2, if_pos (by omega), List.getD_append _ _ _ _ (by omega)]
        · rw [if_neg c2, if_neg (by omega)]
    · cases j with
      | zero =>
        rw [← e0, g4 _ fun i hi => by rw [e1]; exact (ne i hi).symm, e3, if_pos rfl]
      | succ j => rw [← e1]; exact g3 j (by omega)
    · rw [g4 k fun i hi => by rw [e1]; exact h (i + 1) (by omega), e3,
        if_neg (by rw [e0]; exact h 0 (by omega))]
    · rw [g5, e1, e2, Nat.add_assoc]

theorem ackData_receivesOnly (c : DataCase) (q : Word) (s : State) : ReceivesOnly s (ackData c q s) := by
  unfold ackData; split <;> rfl

theorem bufferAhead_receivesOnly (q : Word) (p : Bytes) (s : State) : ReceivesOnly s (bufferAhead q p s) := by
  unfold bufferAhead; split <;> rfl

/-- Case A, step by step (45_receiver_reorder R281, R282). -/
theorem receiveData_inOrder {q : Word} {p : Bytes} {s : State} (h : dataCase s q = .inOrder) :
    receiveData q p s =
      match deliver q p s with
      | .error s' => s'
      | .ok s' =>
        match drain s' with
        | .error s'' => s''
        | .ok s'' => ackData .inOrder q s'' := by
  simp only [receiveData, h]
  cases deliver q p s <;> rfl

theorem receiveData_receivesOnly (q : Word) (p : Bytes) (s : State) : ReceivesOnly s (receiveData q p s) := by
  cases hc : dataCase s q
  · rw [receiveData_inOrder hc]
    have h1 := deliver_receivesOnly q p s
    cases e1 : deliver q p s with
    | error s' => rw [e1] at h1; exact h1
    | ok s' =>
      rw [e1] at h1
      dsimp only
      have h2 := drainLoop_receivesOnly s'.eng.rbuf.length s'
      cases e2 : drainLoop s'.eng.rbuf.length s' with
      | error s'' => rw [drain, e2]; rw [e2] at h2; exact h1.trans h2
      | ok s'' => rw [drain, e2]; rw [e2] at h2; exact (h1.trans h2).trans (ackData_receivesOnly _ _ _)
  · simp only [receiveData, hc]
    exact (bufferAhead_receivesOnly _ _ _).trans (ackData_receivesOnly _ _ _)
  · simp only [receiveData, hc]; exact ackData_receivesOnly _ _ _
  · simp only [receiveData, hc]; exact ackData_receivesOnly _ _ _

theorem rxReceiver_receivesOnly (r : Option Parsed) (s : State) : ReceivesOnly s (rxReceiver r s) := by
  unfold rxReceiver receiverListen receiverFrame receiverDuplicateStart receiverEnd
  repeat' split
  all_goals first | rfl | exact receiveData_receivesOnly _ _ _

/-! ## The dispatch of a received frame (46_host_control R321, R322) -/

theorem rxEvent_receivesOnly (r : Option Parsed) (s : State) : ReceivesOnly s (rxEvent r s) := by
  unfold rxEvent
  repeat' split
  · rfl
  · exact (rxSender_sendsOnly r s).receives
  · exact rxReceiver_receivesOnly r s

theorem rxEvent_of_sender {s : State} (hr : s.eng.running = true) (hs : s.cfg.role = .sender)
    (r : Option Parsed) : rxEvent r s = rxSender r s := by
  rw [rxEvent, if_neg (by simp [hr]), hs]

theorem rxEvent_of_receiver {s : State} (hr : s.eng.running = true) (hs : s.cfg.role = .receiver)
    (r : Option Parsed) : rxEvent r s = rxReceiver r s := by
  rw [rxEvent, if_neg (by simp [hr]), hs]

/-- A frame of a named type at an ESTABLISHED receiver. -/
theorem rxEvent_established {s : State} (hr : s.eng.running = true) (hs : s.cfg.role = .receiver)
    (hh : s.eng.hs = .established) (t : Word) (f : RxFrame) :
    rxEvent (some (parsedRx t f)) s =
      if t = typeStart ∧ ((parsedRx t f).ok = true ∨ s.cfg.verifyStart = false) then receiverDuplicateStart s
      else if (parsedRx t f).ok = false then s
      else if t = typeData then receiveData f.seq f.payload s
      else if t = typeEnd then receiverEnd f.seq s
      else s := by
  rw [rxEvent_of_receiver hr hs, rxReceiver, hh]
  have ht : (parsedRx t f).hdr.type = t := rfl
  have hq : (parsedRx t f).hdr.seq = f.seq := rfl
  have hp : (parsedRx t f).payload = f.payload := rfl
  simp only [receiverFrame, startAccepted, ht, hq, hp, Bool.and_eq_true, beq_iff_eq, Bool.or_eq_true,
    Bool.not_eq_true']

/-- Every RX row is the dispatch of some parse. -/
theorem execRxReserved_eq (f : RxOther) (s : State) :
    execRxReserved f s = .next (rxEvent (match f with
      | .typed t g => some (parsedRx t g)
      | .noHeader _ => none) s) := by
  cases f <;> rfl

end Sys2Proof.Machine
end

