-- ==== Sys2Proof/Laws/PerInstr.lean ====
section
/-! SUPPORT. A family of statements about the instructions as syntax, one lemma per constructor: the port an
instruction's encoding stands on. -/

namespace Sys2Proof

/-- The rows of the opcode table the block emits. -/
def Instr.isTx : Instr → Bool
  | .txStart | .txEnd _ | .txData _ _ | .txAck _ => true
  | .nop | .run | .softReset | .errClr | .csum | .encode | .decode | .verify | .badCmd _ | .regRd _
  | .regWr _ _ | .bufRd _ _ | .bufWr _ _ _ | .rxStart _ | .rxEnd _ | .rxData _ | .rxAck _ | .rxReserved _
  | .tick | .reset => false

/-- What stands on the TX port. -/
def Wire.isTx : Wire → Bool
  | .tx _ => true
  | .input _ => false

/-- The encoder puts the TX rows, and only those, on the TX port. -/
def Laws.EncodedPort.Statement (i : Instr) : Prop := (encode i).isTx = i.isTx

namespace Laws.EncodedPort

theorem nop : Statement .nop := rfl
theorem run : Statement .run := rfl
theorem softReset : Statement .softReset := rfl
theorem errClr : Statement .errClr := rfl
theorem csum : Statement .csum := rfl
theorem encode : Statement .encode := rfl
theorem decode : Statement .decode := rfl
theorem verify : Statement .verify := rfl
theorem badCmd (op : BitVec 8) : Statement (.badCmd op) := rfl
theorem regRd (index : BitVec 8) : Statement (.regRd index) := rfl
theorem regWr (index : BitVec 8) (data : Word) : Statement (.regWr index data) := rfl
theorem bufRd (code : BitVec 2) (offset : Word) : Statement (.bufRd code offset) := rfl
theorem bufWr (code : BitVec 2) (offset : Word) (data : Byte) : Statement (.bufWr code offset data) := rfl
theorem rxStart (f : RxFrame) : Statement (.rxStart f) := rfl
theorem rxEnd (f : RxFrame) : Statement (.rxEnd f) := rfl
theorem rxData (f : RxFrame) : Statement (.rxData f) := rfl
theorem rxAck (f : RxFrame) : Statement (.rxAck f) := rfl
theorem rxReserved (f : RxOther) : Statement (.rxReserved f) := by cases f <;> rfl
theorem txStart : Statement .txStart := rfl
theorem txEnd (e : Word) : Statement (.txEnd e) := rfl
theorem txData (q : Word) (p : Bytes) : Statement (.txData q p) := rfl
theorem txAck (a : Word) : Statement (.txAck a) := rfl
theorem tick : Statement .tick := rfl
theorem reset : Statement .reset := rfl

end Laws.EncodedPort

end Sys2Proof
end

