-- ==== Sys2Proof/Tests/Slice0.lean ====
section
/-! SUPPORT. The author's tests: the checks of WellFormed refuse an ill-formed term each; words written out
from 30_encoding decode to the instruction they stand for; single steps give the values of
95_test_vectors.md; and a witness for the hypotheses of each statement. -/

namespace Sys2Proof.Tests

open Machine

/-! ## WellFormed: an ill-formed term for each check -/

theorem test_wf_badCmd_of_a_command : WellFormed (.badCmd 0x13) = false := by decide
theorem test_wf_regWr_of_cmd : WellFormed (.regWr 0x07 1) = false := by decide

/-- A payload one byte longer than the length field says. -/
def overlong : RxFrame := { seq := 1, length := 1, csum := 0, payload := [0x61, 0x62] }

theorem test_wf_rxStart : WellFormed (.rxStart overlong) = false := by decide
theorem test_wf_rxEnd : WellFormed (.rxEnd overlong) = false := by decide
theorem test_wf_rxData : WellFormed (.rxData overlong) = false := by decide
theorem test_wf_rxAck : WellFormed (.rxAck overlong) = false := by decide
theorem test_wf_rxReserved_payload : WellFormed (.rxReserved (.typed 4 overlong)) = false := by decide
theorem test_wf_rxReserved_of_a_type :
    WellFormed (.rxReserved (.typed 3 { seq := 0, length := 0, csum := 0, payload := [] })) = false := by decide

theorem test_wf_rx_buffer_size :
    WellFormed (.rxData { seq := 0, length := 4000, csum := 0, payload := List.replicate 2033 0 }) = false ∧
    WellFormed (.rxData { seq := 0, length := 4000, csum := 0, payload := List.replicate 2032 0 }) = true := by
  decide +kernel

theorem test_wf_noHeader_with_header :
    WellFormed (.rxReserved (.noHeader (List.replicate 16 0))) = false ∧
    WellFormed (.rxReserved (.noHeader (List.replicate 15 0))) = true := by decide

theorem test_wf_txData_size :
    WellFormed (.txData 1 (List.replicate 1457 0)) = false ∧
    WellFormed (.txData 1 (List.replicate 1456 0)) = true := by decide +kernel

/-! ## Decoding: words written out from the tables of 30_encoding -/

/-- A command word, R116 and R117; bits 31:8 are ignored (R119). -/
theorem test_decode_nop : decode (.input (.reg true 0x07 0xABCDEF00)) = .ok .nop := by decide
theorem test_decode_run : decode (.input (.reg true 0x07 0x00000001)) = .ok .run := by decide
theorem test_decode_softReset : decode (.input (.reg true 0x07 0x00000002)) = .ok .softReset := by decide
theorem test_decode_errClr : decode (.input (.reg true 0x07 0x00000003)) = .ok .errClr := by decide
theorem test_decode_csum : decode (.input (.reg true 0x07 0x00000010)) = .ok .csum := by decide
theorem test_decode_encode : decode (.input (.reg true 0x07 0x00000011)) = .ok .encode := by decide
theorem test_decode_decode : decode (.input (.reg true 0x07 0x00000012)) = .ok .decode := by decide
theorem test_decode_verify : decode (.input (.reg true 0x07 0x00000013)) = .ok .verify := by decide
theorem test_decode_badCmd :
    decode (.input (.reg true 0x07 0x00000004)) = .ok (.badCmd 0x04) ∧
    decode (.input (.reg true 0x07 0x000001FF)) = .ok (.badCmd 0xFF) := by decide

/-- The transactions of R118: (kind, target, offset, data). -/
theorem test_decode_regRd : (hostTransaction 0 0x12 0 0).map decodeInput = some (.regRd 0x12) := by decide
theorem test_decode_regWr :
    (hostTransaction 1 0x02 0 0x00000004).map decodeInput = some (.regWr 0x02 4) ∧
    (hostTransaction 1 0x07 0 0x00000001).map decodeInput = some .run := by decide
theorem test_decode_bufRd : (hostTransaction 2 1 0x04 0).map decodeInput = some (.bufRd 1 4) := by decide
theorem test_decode_bufWr :
    (hostTransaction 3 2 0x11 0x62).map decodeInput = some (.bufWr 2 0x11 0x62) ∧
    hostTransaction 3 4 0 0 = none ∧ hostTransaction 3 2 0 0x100 = none := by decide

/-- Frames at the RX port, byte by byte (R111, R112; the frames of 95_test_vectors, 2.2). -/
theorem test_decode_rxStart :
    decode (.input (.rx [0, 0, 0, 0, 0, 0, 0, 0, 0, 0, 0, 0, 0, 0, 0xFF, 0xFF])) =
      .ok (.rxStart { seq := 0, length := 0, csum := 0xFFFF, payload := [] }) := by decide
theorem test_decode_rxEnd :
    decode (.input (.rx [0, 0, 0, 1, 0, 0, 0, 4, 0, 0, 0, 0, 0, 0, 0xFF, 0xFA])) =
      .ok (.rxEnd { seq := 4, length := 0, csum := 0xFFFA, payload := [] }) := by decide
/-- Bytes past `16 + length` are ignored (R114). -/
theorem test_decode_rxData :
    decode (.input (.rx [0, 0, 0, 2, 0x12, 0x34, 0x56, 0x78, 0, 0, 0, 2, 0, 1, 0x9E, 0x98,
      0x61, 0x62, 0xFF, 0xFF])) =
      .ok (.rxData { seq := 0x12345678, length := 2, csum := 0x00019E98, payload := [0x61, 0x62] }) := by
  decide
theorem test_decode_rxAck :
    decode (.input (.rx [0, 0, 0, 3, 0, 0, 0, 1, 0, 0, 0, 0, 0, 0, 0xFF, 0xFB])) =
      .ok (.rxAck { seq := 1, length := 0, csum := 0xFFFB, payload := [] }) := by decide
/-- A reserved type, and the 13 bytes of 95_test_vectors 2.2 that have no header. -/
theorem test_decode_rxReserved :
    decode (.input (.rx [0, 0, 0, 7, 0, 0, 0, 4, 0, 0, 0, 0, 0, 0, 0xFF, 0xF4])) =
      .ok (.rxReserved (.typed 7 { seq := 4, length := 0, csum := 0xFFF4, payload := [] })) ∧
    decode (.input (.rx (List.replicate 13 0))) = .ok (.rxReserved (.noHeader (List.replicate 13 0))) := by
  decide

/-- Frames at the TX port (R115). -/
theorem test_decode_txStart :
    decode (.tx [0, 0, 0, 0, 0, 0, 0, 0, 0, 0, 0, 0, 0, 0, 0xFF, 0xFF]) = .ok .txStart := by decide
theorem test_decode_txEnd :
    decode (.tx [0, 0, 0, 1, 0, 0, 0, 3, 0, 0, 0, 0, 0, 0, 0xFF, 0xFB]) = .ok (.txEnd 3) := by decide
theorem test_decode_txData :
    decode (.tx [0, 0, 0, 2, 0, 0, 0, 3, 0, 0, 0, 1, 0, 0, 0x9A, 0xF9, 0x65]) =
      .ok (.txData 3 [0x65]) := by decide
theorem test_decode_txAck :
    decode (.tx [0, 0, 0, 3, 0, 0, 0, 4, 0, 0, 0, 0, 0, 0, 0xFF, 0xF8]) = .ok (.txAck 4) := by decide
theorem test_decode_tick : decode (.input .tick) = .ok .tick := by decide
theorem test_decode_reset : decode (.input .reset) = .ok .reset := by decide

/-- The refusals at the TX port, one name each. -/
theorem test_decode_tx_refusals :
    decode (.tx []) = .error .noHeader ∧
    decode (.tx [0, 0, 0, 2, 0, 0, 0, 3, 0, 0, 0, 2, 0, 0, 0x9A, 0xF9, 0x65]) = .error .length ∧
    decode (.tx [0, 0, 0, 2, 0, 0, 0, 3, 0, 0, 0, 1, 0, 0, 0x9A, 0xF8, 0x65]) = .error .checksum ∧
    decode (.tx (encodeFrame 1 3 [0x65])) = .error .controlPayload ∧
    decode (.tx (encodeFrame 0 1 [])) = .error .startSeq ∧
    decode (.tx (encodeFrame 7 4 [])) = .error .reservedType := by decide

/-- Words of the opcode table (log 2), and the step that runs one. -/
theorem test_decodeTableWord :
    decodeTableWord 8 0x13 = some .verify ∧ decodeTableWord 2 3 = some (.bufWr 0 0 0) ∧
    decodeTableWord 32 2 = some (.rxData { seq := 0, length := 0, csum := 0, payload := [] }) ∧
    decodeTableWord 0 0 = some .tick := by decide

theorem test_withFetchWord : step (State.reset.withFetchWord 8 0x02) = exec .softReset State.reset := rfl

/-! ## The checksum and the codec (95_test_vectors, 2.1 and 2.2) -/

theorem test_csum16_odd : csum16 [0x12, 0x34, 0x56] = 0x97CB := by decide
theorem test_csum16_carry : csum16 [0x80, 0x00, 0x80, 0x00] = 0xFFFE := by decide
theorem test_csum16_long : csum16 [0x00, 0x01, 0xF2, 0x03, 0xF4, 0xF5, 0xF6, 0xF7] = 0x220D := by decide
theorem test_csum16_all_ones : csum16 [0xFF, 0xFF, 0xFF, 0xFF] = 0x0000 ∧ csum16 [] = 0xFFFF := by decide

theorem test_encodeFrame_data : dataFrame 1 [0x61, 0x62] =
    [0, 0, 0, 2, 0, 0, 0, 1, 0, 0, 0, 2, 0, 0, 0x9E, 0x98, 0x61, 0x62] := by decide
theorem test_encodeFrame_all_ones : encodeFrame 0xFFFFFFFF 0xFFFFFFFF [] =
    [0xFF, 0xFF, 0xFF, 0xFF, 0xFF, 0xFF, 0xFF, 0xFF, 0, 0, 0, 0, 0, 0, 0, 0] := by decide

/-- A flipped payload bit, a short payload, and a checksum field above 16 bits fail. -/
theorem test_rxParse_invalid :
    (rxParse [0, 0, 0, 2, 0, 0, 0, 1, 0, 0, 0, 2, 0, 0, 0x9E, 0x98, 0x61, 0x63]).map (·.ok) = some false ∧
    (rxParse [0, 0, 0, 2, 0, 0, 0, 1, 0, 0, 0, 5, 0, 0, 0x9E, 0x98, 0x61, 0x62]).map (·.ok) = some false ∧
    (rxParse [0, 0, 0, 3, 0, 0, 0, 1, 0, 0, 0, 0, 0, 1, 0xFF, 0xFB]).map (·.ok) = some false := by decide

/-! ## Single steps -/

/-- A block with `W_MAX` = 8, `IN_CAP` = 16 and `OUT_CAP` = 4. -/
def blk : State := { State.reset with build := ⟨8, 16, 4⟩ }

/-- The state after an instruction. -/
def after (i : Instr) (s : State) : State :=
  match exec i s with
  | .next t => t
  | .fault _ => s
  | .refused _ => s

/-- "HELLO", the input of programs P3 and P4. -/
def hello : Memory := [(0, 0x48), (1, 0x45), (2, 0x4C), (3, 0x4C), (4, 0x4F)]

/-- The configured sender of P3 or P4: window 2, chunk 2, IN_LEN 5. -/
def sender (m : Mode) : State :=
  { blk with inbuf := hello, cfg := { Cfg.reset with mode := m, window := 2, chunk := 2, rto := 3, poll := 2, inLen := 5 } }

/-- The configured receiver: window 4. -/
def receiver (m : Mode) : State :=
  { blk with cfg := { Cfg.reset with role := .receiver, mode := m, window := 4 } }

/-- A valid control or DATA frame as an RX instruction's operand. -/
def frame (t q : Word) (p : Bytes) : RxFrame :=
  { seq := q, length := BitVec.ofNat 32 p.length, csum := (stampedHeader t q p).csum, payload := p }

/-- The sender in the data phase. -/
def sending (m : Mode) : State :=
  after (.rxAck (frame 3 (startAck m) [])) (after .run (sender m))

/-- The receiver in the data phase. -/
def receiving (m : Mode) : State := after (.rxStart (frame 0 0 [])) (after .run (receiver m))

theorem test_nop : exec .nop blk = .next blk := rfl

/-- 95_test_vectors, P3 steps 7 to 10. -/
theorem test_run_sender :
    let t := after .run (sender .cumulative)
    readReg t 0x08 = 0x00000009 ∧ readReg t 0x0F = 3 ∧ readReg t 0x13 = 4 ∧
      t.tx = [[0, 0, 0, 0, 0, 0, 0, 0, 0, 0, 0, 0, 0, 0, 0xFF, 0xFF]] := by decide

/-- RUN refuses WINDOW 0 and 9 (`W_MAX` 8), CHUNK 0 and 1457, RTO 0, POLL 0 and IN_LEN 17 (`IN_CAP` 16),
and takes the last legal value of each. -/
theorem test_run_refusals :
    let c : Cfg := (sender .selective).cfg
    let info (d : Cfg) : Word × Word :=
      let t := after .run { sender .selective with cfg := d }
      (readReg t 0x08, readReg t 0x09)
    info { c with window := 0 } = (0x200, 2) ∧ info { c with window := 9 } = (0x200, 2) ∧
    info { c with window := 8, chunk := 0 } = (0x200, 3) ∧ info { c with chunk := 1457 } = (0x200, 3) ∧
    info { c with chunk := 1456, rto := 0 } = (0x200, 4) ∧ info { c with poll := 0 } = (0x200, 5) ∧
    info { c with mode := .cumulative, poll := 0 } = (0x009, 0) ∧
    info { c with inLen := 17 } = (0x200, 6) ∧ info { c with inLen := 16, rto := 1 } = (0x009, 0) := by
  decide

/-- P6 steps 27 to 29. -/
theorem test_softReset :
    let t := after .softReset (receiving .cumulative)
    readReg t 0x08 = 0 ∧ readReg t 0x02 = 4 ∧ readReg t 0x0D = 0 := by decide

/-- P6 steps 23 and 24: FAULT stays. -/
theorem test_errClr :
    let s := engineFault .outOverflow 3 (receiving .cumulative)
    readReg s 0x08 = 0x322 ∧ readReg (after .errClr s) 0x08 = 0x022 := by decide

/-- P6 steps 25 and 10: FAULTED before BUSY. -/
theorem test_run_faulted_busy :
    readReg (after .run (engineFault .outOverflow 3 (receiving .cumulative))) 0x08 = 0x622 ∧
    readReg (after .run (receiving .cumulative)) 0x08 = 0x50A := by decide

/-- FBUF holds the frame of 41_codec R165's example. -/
def withFrame (n : Word) (b : Bytes) : State :=
  { blk with fbuf := Memory.writeBytes [] 0 b, codec := { CodecRegs.reset with fFlen := n } }

theorem test_csum :
    readReg (after .csum (withFrame 3 [0x12, 0x34, 0x56])) 0x1B = 0x97CB ∧
    readReg (after .csum (withFrame 2049 [])) 0x08 = 0x400 := by decide

/-- 95_test_vectors 2.3 row 1, and the example of 41_codec R165. -/
theorem test_encode :
    let s := { blk with
      fbuf := Memory.writeBytes [] 16 [0x61, 0x62]
      codec := { CodecRegs.reset with fType := 2, fSeq := 1, fLen := 2 } }
    let t := after .encode s
    t.fbuf.readBytes 0 18 = [0, 0, 0, 2, 0, 0, 0, 1, 0, 0, 0, 2, 0, 0, 0x9E, 0x98, 0x61, 0x62] ∧
      readReg t 0x17 = 0x9E98 ∧ readReg t 0x18 = 18 ∧
      readReg (after .encode { s with codec := { s.codec with fLen := 1457 } }) 0x09 = 1457 := by decide

/-- 95_test_vectors 2.3 rows 8 and 2. -/
theorem test_decode :
    let t := after .decode (withFrame 18 [0, 0, 0, 2, 0, 0, 0, 1, 0, 0, 0, 5, 0, 0, 0x9E, 0x98, 0x61, 0x62])
    readReg t 0x14 = 2 ∧ readReg t 0x16 = 5 ∧ readReg t 0x17 = 0x9E98 ∧ readReg t 0x19 = 2 ∧
      readReg (after .decode (withFrame 15 [])) 0x09 = 15 := by decide

/-- 95_test_vectors 2.3 rows 5, 7 and 3. -/
theorem test_verify :
    let f (b : Byte) : Bytes := [0, 0, 0, 3, 0, 0, 0, 1, 0, 0, 0, 0, 0, b, 0xFF, 0xFB]
    readReg (after .verify (withFrame 16 (f 1))) 0x1A = 0 ∧
      readReg (after .verify (withFrame 16 (f 0))) 0x1A = 1 ∧
      readReg (after .verify (withFrame 15 (f 0))) 0x09 = 15 := by decide

theorem test_badCmd :
    let t := after (.badCmd 0x7F) blk
    readReg t 0x08 = 0x100 ∧ readReg t 0x09 = 0x7F := by decide

theorem test_regRd : (after (.regRd 0x00) blk).rdata = 0x52545031 ∧ (after (.regRd 0x03) blk).rdata = 1456 := by
  decide

/-- Reserved bits of CTRL read 0; the lock drops the write. -/
theorem test_regWr :
    readReg (after (.regWr 0x01 0xFFFFFFFF) blk) 0x01 = 7 ∧
      readReg (after (.regWr 0x02 1) (receiving .cumulative)) 0x02 = 4 := by decide

/-- OUTBUF reads 0 from OUT_LEN on; INBUF reads its bytes below IN_CAP. -/
theorem test_bufRd :
    (after (.bufRd 1 3) { blk with outbuf := [(3, 0x61)], eng := { Engine.reset with outLen := 3 } }).rdata = 0 ∧
      (after (.bufRd 1 3) { blk with outbuf := [(3, 0x61)], eng := { Engine.reset with outLen := 4 } }).rdata =
        0x61 ∧
      (after (.bufRd 0 4) (sender .selective)).rdata = 0x4F := by decide

theorem test_bufWr :
    (after (.bufWr 0 15 0x61) blk).inbuf = [(15, 0x61)] ∧ (after (.bufWr 0 16 0x61) blk).inbuf = [] ∧
      (after (.bufWr 1 0 0x61) blk).outbuf = [] ∧ (after (.bufWr 2 2047 0x61) blk).fbuf = [(2047, 0x61)] := by
  decide

/-- 95_test_vectors 2.4, the receiver: a START with a bad checksum is accepted unless VERIFY_START is set. -/
theorem test_rxStart :
    let f : RxFrame := { seq := 0, length := 0, csum := 0xFFFE, payload := [] }
    let s := after .run (receiver .cumulative)
    readReg (after (.rxStart f) s) 0x08 = 0x0A ∧
      after (.rxStart f) { s with cfg := { s.cfg with verifyStart := true } } =
        { s with cfg := { s.cfg with verifyStart := true } } := by decide

/-- P5 steps 12 and 13. -/
theorem test_rxEnd :
    let s := { receiving .selective with eng := { (receiving .selective).eng with expected := 3 } }
    (after (.rxEnd (frame 1 2 [])) s).tx = s.tx ++ [ackF 3] ∧ readReg (after (.rxEnd (frame 1 2 [])) s) 0x08 = 0x0A ∧
      readReg (after (.rxEnd (frame 1 3 [])) s) 0x08 = 0x14 := by decide

/-- P6 steps 16 and 17. -/
theorem test_rxData :
    let s := after (.rxData (frame 2 2 [0x63, 0x64])) (receiving .cumulative)
    let t := after (.rxData (frame 2 1 [0x61, 0x62])) s
    readReg s 0x12 = 1 ∧ readReg t 0x12 = 0 ∧ readReg t 0x0C = 4 ∧ t.outbuf.readBytes 0 4 = [0x61, 0x62, 0x63, 0x64] ∧
      t.tx = s.tx ++ [ackF 3] := by decide

/-- A receiver of capacity 4 that expects `e` and holds the packets `rbuf`. -/
def expecting (e : Word) (rbuf : List (Nat × Bytes)) (n : Word) : State :=
  { receiving .selective with
    eng := { (receiving .selective).eng with expected := e, rbuf := rbuf, outLen := n } }

/-- P6 steps 19 to 21: the packet does not fit; and the drain's fault, after which the packet that did not fit
counts in BUF_COUNT (60_exceptions R343). -/
theorem test_rxData_overflow :
    let s := { receiving .cumulative with eng := { (receiving .cumulative).eng with expected := 3, outLen := 4 } }
    let t := after (.rxData (frame 2 3 [0x65])) s
    let u := after (.rxData (frame 2 3 [0x61])) (expecting 3 [(4, [0x62]), (5, [0x63, 0x64])] 1)
    readReg t 0x08 = 0x322 ∧ readReg t 0x09 = 3 ∧ t.tx = s.tx ∧
      readReg u 0x12 = 1 ∧ readReg u 0x09 = 5 ∧ readReg u 0x0D = 5 ∧ readReg u 0x0C = 3 := by decide

/-- P3 steps 14 and 18. -/
theorem test_rxAck :
    let s := sending .cumulative
    let t := after (.rxAck (frame 3 2 [])) s
    readReg s 0x11 = 3 ∧ s.tx.length = 3 ∧ t.tx = s.tx ++ [dataFrame 3 [0x4F]] ∧ readReg t 0x0E = 2 := by decide

/-- P4 steps 13 and 15: an ACK out of order marks; the next one slides the base past both. -/
theorem test_rxAck_selective :
    let s := after (.rxAck (frame 3 1 [])) (sending .selective)
    let t := after (.rxAck (frame 3 0 [])) s
    readReg s 0x0E = 0 ∧ readReg t 0x0E = 2 ∧ t.tx = s.tx ++ [dataFrame 2 [0x4F]] := by decide

/-- A frame of a reserved type, or with no header, is dropped with no reply (R112, R120). -/
theorem test_rxReserved :
    let s := receiving .cumulative
    after (.rxReserved (.typed 7 (frame 7 4 []))) s = s ∧ after (.rxReserved (.noHeader [0])) s = s := by decide

theorem test_txStart : (after .txStart blk).tx = [[0, 0, 0, 0, 0, 0, 0, 0, 0, 0, 0, 0, 0, 0, 0xFF, 0xFF]] := by decide
theorem test_txEnd : (after (.txEnd 1) blk).tx = [[0, 0, 0, 1, 0, 0, 0, 1, 0, 0, 0, 0, 0, 0, 0xFF, 0xFD]] := by decide
theorem test_txData : (after (.txData 0 [0x48, 0x69]) blk).tx =
    [[0, 0, 0, 2, 0, 0, 0, 0, 0, 0, 0, 2, 0, 0, 0xB7, 0x92, 0x48, 0x69]] := by decide
theorem test_txAck : (after (.txAck 0) blk).tx = [[0, 0, 0, 3, 0, 0, 0, 0, 0, 0, 0, 0, 0, 0, 0xFF, 0xFC]] := by decide

/-- 95_test_vectors 2.4, the sender's rows 2 and 3: `3 − 0 ≥ 3`, and not before. -/
theorem test_tick :
    let s := after .tick (after .tick (after .run (sender .cumulative)))
    s.tx.length = 1 ∧ (after .tick s).tx.length = 2 ∧ readReg (after .tick s) 0x0B = 3 := by decide

theorem test_reset : after .reset (receiving .cumulative) = blk := by decide

/-! ## Witnesses: the hypotheses of the statements are met, each clause at the edge of its range -/

theorem witness_EncodedInstructionsDecodeBack :
    [Instr.badCmd 0x04, .badCmd 0xFF, .regRd 0x07, .regWr 0x06 1, .regWr 0x08 1, .bufRd 3 0, .bufWr 3 0 0xFF,
      .rxStart (frame 0 0 [0]), .rxEnd (frame 1 0 []), .rxData (frame 2 1 [0x61]), .rxAck (frame 3 1 []),
      .rxReserved (.typed 4 (frame 4 0 [])), .rxReserved (.noHeader []), .txData 1 [0x61], .tick].all
        WellFormed = true := by decide

theorem witness_DecodedInstructionsAreWellFormed :
    decode (.tx (ackF 0xFFFFFFFF)) = .ok (.txAck 0xFFFFFFFF) := by decide

theorem witness_CommandUpperBitsAreIgnored :
    (0xFFFFFF01#32).extractLsb' 0 8 = (0x00000001#32).extractLsb' 0 8 := by decide

/-- For FrameRoundTrip and the clauses of ReceptionReadsHeaderAndLength: no payload, 1457 bytes of it, and the
most a frame can carry. -/
theorem witness_frame_lengths :
    (List.replicate 1456 (0 : Byte)).length ≤ 1456 ∧ (List.replicate 15 (0 : Byte)).length < 16 ∧
    16 ≤ (List.replicate 16 (0 : Byte)).length ∧ (List.replicate 2048 (0 : Byte)).length = 2048 ∧
    (0 : Word).toNat = ([] : Bytes).length ∧ (1457 : Word).toNat = (List.replicate 1457 (0 : Byte)).length ∧
    (2032 : Word).toNat = (List.replicate 2032 (0 : Byte)).length ∧
    (List.replicate 2032 (0 : Byte)).length ≤ 2032 := by
  simp only [List.length_replicate]; decide

theorem witness_ValidFrameSumsToAllOnes :
    let h := stampedHeader 2 1 [0x61, 0x62]
    h.csum = (frameCsum h.type h.seq h.length [0x61, 0x62]).setWidth 32 := rfl

theorem witness_FlippedPayloadBitFailsVerify :
    1 < [0x61, 0x62].length ∧ 7 < 8 ∧ verifyFrame (stampedHeader 2 1 [0x61, 0x62]) [0x61, 0x62] = true := by
  decide

theorem witness_StepRunsTheDecodedEvent :
    { blk with inputs := [Input.tick, .reset] }.inputs = Input.tick :: [.reset] ∧ blk.inputs = [] := by decide

theorem witness_ReservedOpcodeRecordsBadCmd :
    0x04#8 ∉ [0x00, 0x01, 0x02, 0x03, 0x10, 0x11, 0x12, 0x13#8] ∧
      (0xABCDEF04#32).extractLsb' 0 8 = 0x04#8 := by decide

/-- For EncodeCommand, DecodeCommand, VerifyCommand and EncodedFrameVerifies: the lengths at both edges. -/
theorem witness_codec_lengths :
    (1457#32).toNat > 1456 ∧ (1456#32).toNat ≤ 1456 ∧ 2048 < (2049#32).toNat ∧ (15#32).toNat < 16 ∧
      (16 ≤ (16#32).toNat ∧ (16#32).toNat ≤ 2048) ∧ (16 ≤ (2048#32).toNat ∧ (2048#32).toNat ≤ 2048) := by decide

theorem witness_CodecAndEngineShareNoState :
    (∃ t, exec .verify (withFrame 16 []) = .next t) ∧ ∃ t, exec .tick (sending .selective) = .next t :=
  ⟨⟨_, rfl⟩, ⟨_, rfl⟩⟩

theorem witness_reserved_indexes :
    0x1C ≤ (0x1C#8).toNat ∧ 0x1C ≤ (0xFF#8).toNat ∧ 0x14 ≤ (0x14#8).toNat ∧ (0x1B#8).toNat ≤ 0x1B ∧
      0x08#8 ∉ [0x01, 0x02, 0x03, 0x04, 0x05, 0x06, 0x07, 0x0A, 0x14, 0x15, 0x16, 0x17, 0x18#8] := by decide

theorem witness_LockedWritesHaveNoEffect :
    (receiving .selective).eng.running = true ∧ 0x01#8 ∈ [0x01, 0x02, 0x03, 0x04, 0x05, 0x06#8] := by decide

theorem witness_FramesAreIgnoredWhileNotRunning : blk.eng.running = false := rfl

theorem witness_ListeningReceiverTakesStartOnly :
    let s := after .run (receiver .cumulative)
    s.eng.running = true ∧ s.cfg.role = .receiver ∧ s.eng.hs = .idle ∧
      WellFormed (.rxReserved (.typed 4 (frame 4 0 []))) = true := by decide

/-- For DuplicateStartIsAnsweredAgain, ValidEndClosesOrIsAnswered and EstablishedReceiverDrops. -/
theorem witness_established_receiver :
    let s := receiving .cumulative
    s.eng.running = true ∧ s.cfg.role = .receiver ∧ s.eng.hs = .established ∧
      (parsedRx 1 (frame 1 1 [])).ok = true ∧ (parsedRx 1 (frame 2 1 [])).ok = false ∧
      (parsedRx 2 (frame 3 1 [])).ok = false ∧ (parsedRx 0 (frame 1 0 [])).ok = false ∧
      { s.cfg with verifyStart := true }.verifyStart = true := by decide

theorem witness_SenderDropsOtherFrames :
    (sending .selective).eng.running = true ∧ (sending .selective).cfg.role = .sender ∧
      (parsedRx 3 (frame 2 1 [])).ok = false := by decide

/-- Case B at both edges of the window (expected 1, window 4): 2 and 4. -/
theorem witness_AheadDataIsBufferedOnce :
    let s := receiving .cumulative
    s.eng.running = true ∧ s.cfg.role = .receiver ∧ s.eng.hs = .established ∧
      (parsedRx 2 (frame 2 2 [0x61])).ok = true ∧ (parsedRx 2 (frame 2 4 [0x61])).ok = true ∧
      s.eng.expected.toNat < 2 ∧ 4 < s.eng.expected.toNat + s.cfg.window.toNat := by decide

/-- Case C at 0, case D at 5 (expected 1, window 4). -/
theorem witness_DroppedDataIsAnswered :
    let s := receiving .cumulative
    s.eng.running = true ∧ s.cfg.role = .receiver ∧ s.eng.hs = .established ∧
      (parsedRx 2 (frame 2 0 [0x61])).ok = true ∧ (parsedRx 2 (frame 2 5 [0x61])).ok = true ∧
      (0 : Word).toNat < s.eng.expected.toNat ∧ s.eng.expected.toNat + s.cfg.window.toNat ≤ (5 : Word).toNat ∧
      (5 : Word) ≠ s.eng.expected := by decide

/-- A run of one packet that fills OUTBUF to its last byte, and no run at the last number, after which EXPECTED is 0 (R281). -/
theorem witness_InOrderDataDeliversTheRun :
    (let s := expecting 3 [(4, [0x63])] 2
     s.eng.running = true ∧ s.cfg.role = .receiver ∧ s.eng.hs = .established ∧
      (parsedRx 2 (frame 2 3 [0x61])).ok = true ∧ (frame 2 3 [0x61]).seq = s.eng.expected ∧
      (∀ j, j < [[0x63#8]].length →
        Store.find? s.eng.rbuf (s.eng.expected + BitVec.ofNat 32 (1 + j)).toNat = [[0x63#8]][j]?) ∧
      Store.find? s.eng.rbuf (s.eng.expected + BitVec.ofNat 32 (1 + 1)).toNat = none ∧
      s.eng.outLen.toNat + ([0x61#8] ++ [[0x63#8]].flatten).length ≤ s.build.outCap) ∧
    (let s := expecting 0xFFFFFFFF [] 0
     s.eng.running = true ∧ (parsedRx 2 (frame 2 0xFFFFFFFF [0x61])).ok = true ∧
      (frame 2 0xFFFFFFFF [0x61]).seq = s.eng.expected ∧
      Store.find? s.eng.rbuf (s.eng.expected + BitVec.ofNat 32 (1 + 0)).toNat = none ∧
      (s.eng.expected + BitVec.ofNat 32 (1 + 0)).toNat = 0) := by decide

/-- The clauses: one byte too many arrives; the arriving packet fills OUTBUF and the next does not fit; the
arriving packet and one of the drain fit and the second of the drain does not. -/
theorem witness_OverflowingDeliveryFaults :
    (let s := expecting 3 [(4, [0x63])] 2
     s.eng.running = true ∧ s.cfg.role = .receiver ∧ s.eng.hs = .established ∧
      ((parsedRx 2 (frame 2 3 [0x61, 0x62, 0x63])).ok = true ∧
        s.build.outCap < s.eng.outLen.toNat + [0x61#8, 0x62, 0x63].length) ∧
      ((parsedRx 2 (frame 2 3 [0x61, 0x62])).ok = true ∧
        Store.find? s.eng.rbuf (s.eng.expected + BitVec.ofNat 32 (1 + 0)).toNat = some [0x63] ∧
        s.eng.outLen.toNat + [0x61#8, 0x62].length ≤ s.build.outCap ∧
        s.build.outCap < s.eng.outLen.toNat + [0x61#8, 0x62].length + [0x63#8].length)) ∧
    (let s := expecting 3 [(4, [0x62]), (5, [0x63, 0x64])] 1
     s.eng.running = true ∧ s.cfg.role = .receiver ∧ s.eng.hs = .established ∧
      (parsedRx 2 (frame 2 3 [0x61])).ok = true ∧ (frame 2 3 [0x61]).seq = s.eng.expected ∧
      (∀ j, j < [[0x62#8]].length →
        Store.find? s.eng.rbuf (s.eng.expected + BitVec.ofNat 32 (1 + j)).toNat = [[0x62#8]][j]?) ∧
      Store.find? s.eng.rbuf (s.eng.expected + BitVec.ofNat 32 (1 + 1)).toNat = some [0x63, 0x64] ∧
      s.eng.outLen.toNat + ([0x61#8] ++ [[0x62#8]].flatten).length ≤ s.build.outCap ∧
      s.build.outCap < s.eng.outLen.toNat + ([0x61#8] ++ [[0x62#8]].flatten).length + [0x63#8, 0x64].length) := by
  decide

theorem witness_StartAckOpensTheFirstWindow :
    let s := after .run (sender .cumulative)
    s.eng.running = true ∧ s.cfg.role = .sender ∧ s.cfg.mode = .cumulative ∧ s.eng.hs = .establishing ∧
      (parsedRx 3 (frame 3 1 [])).ok = true ∧ (parsedRx 3 (frame 3 0 [])).ok = true := by decide

/-- The three clauses: another number, an empty input (END number 0), and a first window. -/
theorem witness_StartAckOpensTheFirstPass :
    let s := after .run (sender .selective)
    let s0 := after .run { sender .selective with cfg := { (sender .selective).cfg with inLen := 0 } }
    (s.eng.running = true ∧ s.cfg.role = .sender ∧ s.cfg.mode = .selective ∧ s.eng.hs = .establishing ∧
      (parsedRx 3 (frame 3 0 [])).ok = true ∧ (parsedRx 3 (frame 3 1 [])).ok = true ∧ s.eng.endSeq ≠ 0) ∧
    (s0.eng.running = true ∧ s0.cfg.role = .sender ∧ s0.cfg.mode = .selective ∧
      s0.eng.hs = .establishing ∧ s0.eng.endSeq = 0) ∧
    ∀ q, slotOf s q = { acked := false, sent := false, timer := 0 } ∧
      slotOf s0 q = { acked := false, sent := false, timer := 0 } :=
  ⟨by decide, by decide, fun _ => ⟨rfl, rfl⟩⟩

/-- The clauses: a number below `next_ack` (1), `next_ack` itself (2), the window's end (3), one above it (4). -/
theorem witness_CumulativeAckAdvancesTheWindow :
    let s := sending .cumulative
    s.eng.running = true ∧ s.cfg.role = .sender ∧ s.cfg.mode = .cumulative ∧ s.eng.hs = .established ∧
      s.eng.nextAck = 2 ∧ windowEnd s = 3 ∧ s.eng.endSeq = 4 ∧ (parsedRx 3 (frame 3 1 [])).ok = true ∧
      (parsedRx 3 (frame 3 2 [])).ok = true ∧ (parsedRx 3 (frame 3 3 [])).ok = true ∧
      (parsedRx 3 (frame 3 4 [])).ok = true := by decide

/-- The END number, 4, in the window after the ACK of packet 1. -/
theorem witness_CumulativeAckAdvancesTheWindow_end :
    let s := after (.rxAck (frame 3 2 [])) (sending .cumulative)
    s.eng.running = true ∧ s.cfg.role = .sender ∧ s.cfg.mode = .cumulative ∧ s.eng.hs = .established ∧
      s.eng.nextAck = 3 ∧ windowEnd s = 4 ∧ s.eng.endSeq = 4 := by decide

theorem witness_EndAckCloses :
    let s := after (.rxAck (frame 3 3 [])) (after (.rxAck (frame 3 4 [])) (after (.rxAck (frame 3 2 []))
      (sending .cumulative)))
    s.eng.running = true ∧ s.cfg.role = .sender ∧ s.eng.hs = .closing ∧
      (parsedRx 3 (frame 3 4 [])).ok = true := by decide

theorem witness_SelectiveAckEndsThePoll :
    let s := sending .selective
    s.eng.running = true ∧ s.cfg.role = .sender ∧ s.cfg.mode = .selective ∧ s.eng.hs = .established ∧
      (parsedRx 3 (frame 3 1 [])).ok = true := by decide

theorem witness_SlideStopsAtTheFirstUnacknowledged :
    (sending .selective).eng.base.toNat ≤ (sending .selective).eng.endSeq.toNat := by decide

theorem witness_TxRowsEmitTheirFrames :
    (if (sending .cumulative).cfg.mode = .cumulative then 1 else 0) ≤ 1 := by decide

theorem witness_RunningConnectionKeepsItsConfiguration :
    (sending .cumulative).eng.running = true ∧ Instr.softReset ≠ .reset ∧
      ∃ t, exec .softReset (sending .cumulative) = .next t := ⟨by decide, by decide, _, rfl⟩

/-- The clauses of FlagsChangeOnlyByTheirEvents: each flag set, and each cleared. -/
theorem witness_FlagsChangeOnlyByTheirEvents :
    let r := receiving .cumulative
    let v := { withFrame 16 [0, 0, 0, 3, 0, 0, 0, 1, 0, 0, 0, 0, 0, 0, 0xFF, 0xFB] with inputs := [] }
    let full := { r with eng := { r.eng with outLen := 4 } }
    (∃ t, exec .run blk = .next t ∧ blk.eng.running = false ∧ t.eng.running = true) ∧
    (∃ t, exec .softReset r = .next t ∧ r.eng.running = true ∧ t.eng.running = false) ∧
    (∃ t, exec (.rxEnd (frame 1 1 [])) r = .next t ∧ r.eng.done = false ∧ t.eng.done = true) ∧
    (∃ t, exec .softReset (closeConnection r) = .next t ∧ (closeConnection r).eng.done = true ∧
      t.eng.done = false) ∧
    (∃ t, exec (.rxData (frame 2 1 [0x61])) full = .next t ∧ full.eng.fault = false ∧ t.eng.fault = true) ∧
    (∃ t, exec .softReset (engineFault .outOverflow 1 r) = .next t ∧
      (engineFault .outOverflow 1 r).eng.fault = true ∧ t.eng.fault = false) ∧
    (∃ t, exec .verify v = .next t ∧ t.codec.fValid ≠ v.codec.fValid) :=
  ⟨⟨_, rfl, by decide⟩, ⟨_, rfl, by decide⟩, ⟨_, rfl, by decide⟩, ⟨_, rfl, by decide⟩,
    ⟨_, rfl, by decide⟩, ⟨_, rfl, by decide⟩, ⟨_, rfl, by decide⟩⟩

/-- The buffers of a state that a test builds. -/
theorem memoryOk_sending (m : Mode) : MemoryOk (sending m) := by
  cases m <;> exact ⟨by decide, by decide, by decide, by decide, by decide, by decide⟩

/-- StepKeepsTheBuffersInBounds and NowCountsTicksOnly. -/
theorem witness_StepKeepsTheBuffersInBounds :
    MemoryOk (sending .selective) ∧ ∃ t, step (sending .selective) = .next t :=
  ⟨memoryOk_sending .selective, _, rfl⟩

/-- A running sender one tick before its window timeout, with that tick to come. -/
def timingOut : State := { sending .cumulative with now := 2, inputs := [.tick] }

theorem inv_timingOut : Inv timingOut where
  build := by decide
  memory := ⟨by decide, by decide, by decide, by decide, by decide, by decide⟩
  flags := ⟨by decide, by decide, by decide, by decide, by decide, by decide⟩
  outLen := by decide
  config := fun _ => ⟨by decide, by decide, by decide, by decide, by decide⟩
  sender := fun _ _ => ⟨by decide, by decide, by decide, by decide, by decide, by decide, by decide, by decide,
    by decide, by decide, by decide, by decide, by decide⟩
  receiver := fun _ h => absurd h (by decide)

theorem witness_StepKeepsTheInvariant : Inv timingOut ∧ ∃ t, step timingOut = .next t :=
  ⟨inv_timingOut, _, rfl⟩

/-- The tick sends the window again: two DATA frames. -/
theorem witness_SentFramesStayInTheWindow :
    Inv timingOut ∧ ∃ t, step timingOut = .next t ∧ t.tx = timingOut.tx ++ [dataF t 1, dataF t 2] :=
  ⟨inv_timingOut, _, rfl, by decide⟩

/-- A receiver with room for the sender's five bytes. -/
def roomy (m : Mode) : State := { receiver m with build := ⟨8, 16, 5⟩ }

theorem witness_RunStartsATransfer :
    let a := sender .cumulative
    let b := roomy .cumulative
    a.build.Legal ∧ FlagsOk a ∧ FlagsOk b ∧ a.cfg.role = .sender ∧ b.cfg.role = .receiver ∧
      a.cfg.mode = b.cfg.mode ∧ ConfigLegal a ∧ ConfigLegal b ∧ a.eng.running = false ∧ b.eng.running = false ∧
      a.eng.fault = false ∧ b.eng.fault = false ∧ a.tx = [] ∧ b.tx = [] := by
  refine ⟨by decide, ⟨by decide, by decide, by decide, by decide, by decide, by decide⟩,
    ⟨by decide, by decide, by decide, by decide, by decide, by decide⟩, rfl, rfl, rfl,
    ⟨by decide, by decide, by decide, by decide, by decide⟩,
    ⟨by decide, by decide, by decide, by decide, by decide⟩, rfl, rfl, rfl, rfl, rfl, rfl⟩

/-- The pair after both RUNs, its START in flight. -/
def linked (m : Mode) : System :=
  System.run { left := sender m, right := roomy m, toLeft := [], toRight := [] }
    [.event .right (.reg true 0x07 1), .event .left (.reg true 0x07 1)]

theorem transfer_linked : Transfer (linked .cumulative) where
  senderRole := by decide
  receiverRole := by decide
  sameMode := by decide
  leftBuild := by decide
  leftConfig := ⟨by decide, by decide, by decide, by decide, by decide⟩
  leftEndSeq := by decide
  leftNumbers := fun _ => ⟨by decide, by decide, by decide, by decide, by decide, by decide, by decide, by decide,
    by decide, by decide, by decide, by decide, by decide⟩
  leftFlags := ⟨by decide, by decide, by decide, by decide, by decide, by decide⟩
  rightFlags := ⟨by decide, by decide, by decide, by decide, by decide, by decide⟩
  leftTaken := by decide
  rightTaken := by decide
  inFlight := fun f hf => by
    rw [show (linked .cumulative).toRight = [startF] by decide, List.mem_singleton] at hf
    exact .inl hf
  replies := fun f hf => by
    rw [show (linked .cumulative).toLeft = [] by decide] at hf
    cases hf
  expectedLow := by decide
  expectedHigh := by decide
  buffered := by decide
  bufferedOnce := by decide
  delivered := by decide
  output := by decide
  complete := by decide

theorem witness_ChannelKeepsTheTransfer :
    Transfer (linked .cumulative) ∧
      [SysAction.event .left .tick, .event .right (.reg false 0x08 0), .deliver .right 0, .drop .right 0,
        .duplicate .right 0, .reorder .right 0].all Undisturbed = true := ⟨transfer_linked, by decide⟩

/-- A whole transfer of three packets, with the first DATA 2 duplicated. -/
def transferRun : List SysAction :=
  [.deliver .right 0, .deliver .left 0, .duplicate .right 1, .deliver .right 0, .deliver .right 0,
    .deliver .left 0, .deliver .left 0, .drop .right 0, .deliver .right 0, .deliver .left 0, .deliver .right 0]

theorem witness_DoneReceiverHoldsTheInput :
    Transfer (linked .cumulative) ∧ (∀ a ∈ transferRun, Undisturbed a = true) ∧
      ((linked .cumulative).run transferRun).right.eng.done = true :=
  ⟨transfer_linked, by decide, by decide +kernel⟩

end Sys2Proof.Tests
end

section
/-! One step of the block: what it takes from the pending events, and what it runs (00_scope R16). -/

namespace Sys2Proof.Machine

theorem takeInput_of_inputs_nil {s : State} (h : s.inputs = []) : takeInput s = none := by
  simp only [takeInput, h]

theorem takeInput_of_inputs_cons {s : State} {e : Input} {rest : List Input}
    (h : s.inputs = e :: rest) : takeInput s = some (e, { s with inputs := rest }) := by
  simp only [takeInput, h]

/-- 60_exceptions R357: between events the block does nothing. -/
theorem step_of_inputs_nil {s : State} (h : s.inputs = []) : step s = .next s := by
  simp only [step, takeInput_of_inputs_nil h]

/-- 00_scope R16: the oldest event leaves the queue before its instruction runs. -/
theorem step_of_inputs_cons {s : State} {e : Input} {rest : List Input} (h : s.inputs = e :: rest) :
    step s = exec (decodeInput e) { s with inputs := rest } := by
  simp only [step, takeInput_of_inputs_cons h]

/-- Settles O10, by the two cases of the pending events. -/
theorem stepRunsTheDecodedEvent : Obligations.StepRunsTheDecodedEvent := by
  intro s
  constructor
  case left =>
    intro e rest hcons
    exact step_of_inputs_cons hcons
  case right =>
    intro hnil
    exact step_of_inputs_nil hnil

end Sys2Proof.Machine
end

section
/-! The reset state (10_state R56) and the lock of a running connection (10_state R48). -/

namespace Sys2Proof.Machine

theorem readReg_reset_codec (i : BitVec 8) (lo : 0x14 ≤ i.toNat) (hi : i.toNat ≤ 0x1B) :
    readReg State.reset i = 0 := by
  unfold readReg
  interval_cases i.toNat <;> rfl

/-- Settles O12, entry by entry of the table. -/
theorem resetLeavesTheTable : Obligations.ResetLeavesTheTable := by
  unfold Obligations.ResetLeavesTheTable
  intro s
  refine ⟨by decide, rfl, rfl, rfl, rfl, rfl, by decide, rfl, rfl, rfl, rfl, rfl, rfl, rfl, rfl, rfl, rfl, rfl, rfl,
    rfl, rfl, ?slots, rfl, rfl, ?rbuf, readReg_reset_codec, ?buffers, rfl, rfl⟩
  case slots => exact fun _ => rfl
  case rbuf => exact find?_nil
  case buffers => exact fun _ => ⟨rfl, rfl, rfl⟩

theorem configBuild_legal : Config.build.Legal :=
  ⟨Nat.le_add_left 1 _, Nat.le_of_lt_succ Config.inCap.isLt⟩

/-- An engine at its reset value is idle, not running and not faulted, so only the build parameters and
the buffers are left to check. -/
theorem inv_of_engine_reset {s : State} (he : s.eng = Engine.reset) (hb : s.build.Legal)
    (hm : MemoryOk s) : Inv s := by
  have hrun : ¬ s.eng.running = true := by simp [he, Engine.reset]
  refine ⟨hb, hm, ?flags, ?outLen, fun h => absurd h hrun, fun h => absurd h hrun, fun h => absurd h hrun⟩
  case flags => constructor <;> simp [he, Engine.reset]
  case outLen => simp [he, Engine.reset]

theorem memoryOk_of_empty {s : State} (hi : s.inbuf = []) (ho : s.outbuf = []) (hf : s.fbuf = []) :
    MemoryOk s := by
  constructor <;> simp [hi, ho, hf, Memory.wf, Store.Sorted]

/-- Settles O53: reset leaves the buffers empty and the engine at its reset value. -/
theorem invariantHoldsAtReset : Obligations.InvariantHoldsAtReset :=
  inv_of_engine_reset rfl configBuild_legal (memoryOk_of_empty rfl rfl rfl)

theorem writeCfg_of_running {s : State} (h : s.eng.running = true) (c : Cfg) : writeCfg s c = s :=
  if_pos h

/-- The six locked registers are written through `writeCfg`. -/
theorem writeReg_locked {s : State} (h : s.eng.running = true) {i : BitVec 8} (v : Word)
    (hi : i ∈ [0x01, 0x02, 0x03, 0x04, 0x05, 0x06#8]) : writeReg s i v = s := by
  simp only [List.mem_cons, List.not_mem_nil, or_false] at hi
  rcases hi with rfl | rfl | rfl | rfl | rfl | rfl <;> exact writeCfg_of_running h _

theorem writeBuf_inbuf_of_running {s : State} (h : s.eng.running = true) (off : Nat) (v : Byte) :
    writeBuf s 0 off v = s :=
  if_neg fun hw => by simp [h] at hw

theorem exec_regWr_of_ne_cmd {i : BitVec 8} (hi : i ≠ cmdIndex) (v : Word) (s : State) :
    exec (.regWr i v) s = .next (writeReg s i v) :=
  if_neg hi

/-- Settles O27, from what a locked register and INBUF do with a write. -/
theorem lockedWritesHaveNoEffect : Obligations.LockedWritesHaveNoEffect := by
  intro s hrun
  constructor
  case left =>
    intro i v hi
    have hcmd : i ≠ cmdIndex := by rintro rfl; simp at hi
    rw [exec_regWr_of_ne_cmd hcmd, writeReg_locked hrun v hi]
  case right =>
    intro off v
    exact congrArg Host.Outcome.next (writeBuf_inbuf_of_running hrun _ v)

end Sys2Proof.Machine
end

section
/-! What one instruction can do, said once: it leaves the connection alone, or it is RUN's start, SOFT_RESET,
RESET, TICK or a received frame. -/

namespace Sys2Proof.Machine

/-! ## Buffers in bounds -/

theorem Memory.writeBytes_bounded {m : Memory} {off cap : Nat} {b : Bytes} (hm : ∀ c ∈ m, c.1 < cap)
    (hb : off + b.length ≤ cap) : ∀ c ∈ m.writeBytes off b, c.1 < cap := by
  intro c hc
  rcases Memory.mem_writeBytes b hc with ⟨_, hlt⟩ | hold
  · omega
  · exact hm c hold

theorem MemoryOk.congr {s t : State} (h : MemoryOk s) (hb : t.build = s.build) (hi : t.inbuf = s.inbuf)
    (ho : t.outbuf = s.outbuf) (hf : t.fbuf = s.fbuf) : MemoryOk t := by
  constructor <;> simp only [hb, hi, ho, hf]
  exacts [h.inbufWF, h.outbufWF, h.fbufWF, h.inbufBound, h.outbufBound, h.fbufBound]

theorem MemoryOk.writeInbuf {s : State} (h : MemoryOk s) {off : Nat} {b : Bytes}
    (hb : off + b.length ≤ s.build.inCap) : MemoryOk { s with inbuf := s.inbuf.writeBytes off b } :=
  { h with
    inbufWF := Memory.wf_writeBytes b off h.inbufWF
    inbufBound := Memory.writeBytes_bounded h.inbufBound hb }

theorem MemoryOk.writeOutbuf {s : State} (h : MemoryOk s) {off : Nat} {b : Bytes}
    (hb : off + b.length ≤ s.build.outCap) : MemoryOk { s with outbuf := s.outbuf.writeBytes off b } :=
  { h with
    outbufWF := Memory.wf_writeBytes b off h.outbufWF
    outbufBound := Memory.writeBytes_bounded h.outbufBound hb }

theorem MemoryOk.writeFbuf {s : State} (h : MemoryOk s) {off : Nat} {b : Bytes}
    (hb : off + b.length ≤ fbufBytes) : MemoryOk { s with fbuf := s.fbuf.writeBytes off b } :=
  { h with
    fbufWF := Memory.wf_writeBytes b off h.fbufWF
    fbufBound := Memory.writeBytes_bounded h.fbufBound hb }

theorem writeBuf_keeps_memoryOk {s : State} (h : MemoryOk s) (code : BitVec 2) (off : Nat) (v : Byte) :
    MemoryOk (writeBuf s code off v) := by
  unfold writeBuf
  split
  case h_1 =>
    split
    case isTrue hin => exact h.writeInbuf (b := [v]) hin.1
    case isFalse => exact h
  case h_2 =>
    split
    case isTrue hin => exact h.writeFbuf (b := [v]) hin
    case isFalse => exact h
  case h_3 => exact h

/-! ## Leaving the connection alone -/

/-- The step changes nothing of the connection: of the engine only the error record, and no configuration
that the lock holds. -/
structure LeavesConnection (s t : State) : Prop where
  build   : t.build = s.build
  locked  : s.eng.running = true → t.cfg = s.cfg
  engine  : t.eng = { s.eng with err := t.eng.err, errInfo := t.eng.errInfo }
  errInfo : (s.eng.err = .none → s.eng.errInfo = 0) → t.eng.err = .none → t.eng.errInfo = 0
  memory  : MemoryOk s → MemoryOk t

/-- A step that touches only what the connection and the buffers do not read. -/
theorem LeavesConnection.of_ports {s t : State} (h : t = { s with
    irqEn := t.irqEn, now := t.now, codec := t.codec, tx := t.tx, rdata := t.rdata, inputs := t.inputs }) :
    LeavesConnection s t := by
  rw [h]
  exact ⟨rfl, fun _ => rfl, rfl, fun he => he, fun hm => hm.congr rfl rfl rfl rfl⟩

theorem raiseError_leavesConnection {c : ErrCode} (hc : c ≠ .none) (info : Word) (s : State) :
    LeavesConnection s (raiseError c info s) :=
  ⟨rfl, fun _ => rfl, rfl, fun _ he => absurd he hc, fun hm => hm.congr rfl rfl rfl rfl⟩

theorem clearError_leavesConnection (s : State) : LeavesConnection s (clearError s) :=
  ⟨rfl, fun _ => rfl, rfl, fun _ _ => rfl, fun hm => hm.congr rfl rfl rfl rfl⟩

theorem writeCfg_leavesConnection (s : State) (c : Cfg) : LeavesConnection s (writeCfg s c) := by
  unfold writeCfg
  split
  case isTrue => exact .of_ports rfl
  case isFalse hrun =>
    exact ⟨rfl, fun h => absurd h hrun, rfl, fun he => he, fun hm => hm.congr rfl rfl rfl rfl⟩

theorem writeReg_leavesConnection (s : State) (i : BitVec 8) (v : Word) :
    LeavesConnection s (writeReg s i v) := by
  unfold writeReg
  split
  case h_1 | h_2 | h_3 | h_4 | h_5 | h_6 => exact writeCfg_leavesConnection s _
  all_goals exact .of_ports rfl

theorem writeCfg_now_codec (s : State) (c : Cfg) :
    (writeCfg s c).now = s.now ∧ (writeCfg s c).codec = s.codec := by
  unfold writeCfg
  split <;> exact ⟨rfl, rfl⟩

/-- A register write moves neither NOW nor F_VALID, which are read-only (46_host_control R317). -/
theorem writeReg_now_fValid (s : State) (i : BitVec 8) (v : Word) :
    (writeReg s i v).now = s.now ∧ (writeReg s i v).codec.fValid = s.codec.fValid := by
  unfold writeReg
  split
  case h_1 | h_2 | h_3 | h_4 | h_5 | h_6 =>
    obtain ⟨hnow, hcodec⟩ := writeCfg_now_codec s _
    exact ⟨hnow, congrArg _ hcodec⟩
  all_goals exact ⟨rfl, rfl⟩

theorem writeBuf_frame (s : State) (code : BitVec 2) (off : Nat) (v : Byte) :
    writeBuf s code off v = { s with
      inbuf := (writeBuf s code off v).inbuf, fbuf := (writeBuf s code off v).fbuf } := by
  unfold writeBuf
  repeat' split
  all_goals rfl

/-! ## The effect of one instruction -/

/-- The reception outcome an RX row hands to the dispatch (41_codec R164). -/
def rxOutcome : Instr → Option (Option Parsed)
  | .rxStart f => some (some (parsedRx typeStart f))
  | .rxEnd f => some (some (parsedRx typeEnd f))
  | .rxData f => some (some (parsedRx typeData f))
  | .rxAck f => some (some (parsedRx typeAck f))
  | .rxReserved (.typed type f) => some (some (parsedRx type f))
  | .rxReserved (.noHeader _) => some none
  | _ => none

/-- What an instruction makes of a state. -/
inductive Effect (s : State) : Instr → State → Prop
  /-- An instruction of the host, the codec or the TX port, or a RUN that is refused. -/
  | bystander {i : Instr} {t : State} (hleaves : LeavesConnection s t) (hnow : t.now = s.now)
      (hvalid : t.codec.fValid ≠ s.codec.fValid → i = .verify) (htick : i ≠ .tick) (hreset : i ≠ .reset) :
      Effect s i t
  /-- A RUN that starts a connection (46_host_control R312). -/
  | start (hfault : s.eng.fault = false) (hrun : s.eng.running = false) (hcfg : configError s = none) :
      Effect s .run (roleStart (initConnection s))
  /-- SOFT_RESET (46_host_control R314). -/
  | softReset : Effect s .softReset { s with eng := Engine.reset }
  /-- RESET (70_reset R370). -/
  | reset : Effect s .reset { State.reset with build := s.build, inputs := s.inputs }
  /-- A TICK with no timer to look at (46_host_control R320). -/
  | idleTick : Effect s .tick { s with now := s.now + 1 }
  /-- A TICK at a running sender (46_host_control R320). -/
  | senderTick (hrun : s.eng.running = true) (hrole : s.cfg.role = .sender) :
      Effect s .tick (senderTimer { s with now := s.now + 1 })
  /-- A frame at the RX port (46_host_control R321). -/
  | frame {i : Instr} {r : Option Parsed} (hrx : rxOutcome i = some r) : Effect s i (rxEvent r s)

/-- The instruction answers a next state, and that state is its effect. -/
def Acts (i : Instr) (o : Host.Outcome State Fault Refusal) (s : State) : Prop :=
  ∃ t, o = .next t ∧ Effect s i t

theorem Effect.raise (s : State) {i : Instr} {c : ErrCode} (hc : c ≠ .none) (info : Word)
    (htick : i ≠ .tick) (hreset : i ≠ .reset) : Effect s i (raiseError c info s) :=
  .bystander (raiseError_leavesConnection hc info s) rfl (fun h => absurd rfl h) htick hreset

/-- A step that touches the ports, IRQ_EN, the read value or the codec registers but F_VALID. -/
theorem Effect.ports {s t : State} {i : Instr} (h : t = { s with
    irqEn := t.irqEn, codec := t.codec, tx := t.tx, rdata := t.rdata })
    (hvalid : t.codec.fValid = s.codec.fValid) (htick : i ≠ .tick) (hreset : i ≠ .reset) : Effect s i t :=
  .bystander (.of_ports (by rw [h])) (by rw [h]) (fun hne => absurd hvalid hne) htick hreset

theorem execRun_acts (s : State) : Acts .run (execRun s) s := by
  unfold execRun
  split
  case isTrue => exact ⟨_, rfl, .raise s (by decide) _ (by decide) (by decide)⟩
  case isFalse hfault =>
    split
    case isTrue => exact ⟨_, rfl, .raise s (by decide) _ (by decide) (by decide)⟩
    case isFalse hrun =>
      split
      case h_1 => exact ⟨_, rfl, .raise s (by decide) _ (by decide) (by decide)⟩
      case h_2 hcfg => exact ⟨_, rfl, .start (Bool.eq_false_of_not_eq_true hfault)
          (Bool.eq_false_of_not_eq_true hrun) hcfg⟩

theorem execCsum_acts (s : State) : Acts .csum (execCsum s) s := by
  unfold execCsum
  split
  case isTrue => exact ⟨_, rfl, .raise s (by decide) _ (by decide) (by decide)⟩
  case isFalse => exact ⟨_, rfl, .ports rfl rfl (by decide) (by decide)⟩

/-- ENCODE writes the 16 header bytes, which FBUF has room for. -/
theorem execEncode_acts (s : State) : Acts .encode (execEncode s) s := by
  unfold execEncode
  split
  case isTrue => exact ⟨_, rfl, .raise s (by decide) _ (by decide) (by decide)⟩
  case isFalse =>
    refine ⟨_, rfl, .bystander ⟨rfl, fun _ => rfl, rfl, fun he => he, fun hm => ?memory⟩ rfl
      (fun h => absurd rfl h) (by decide) (by decide)⟩
    case memory =>
      exact (hm.writeFbuf (off := 0) (by simp [hdrBytes, fbufBytes])).congr rfl rfl rfl rfl

theorem execDecode_acts (s : State) : Acts .decode (execDecode s) s := by
  unfold execDecode
  split
  case h_1 => exact ⟨_, rfl, .raise s (by decide) _ (by decide) (by decide)⟩
  case h_2 => exact ⟨_, rfl, .ports rfl rfl (by decide) (by decide)⟩

theorem execVerify_acts (s : State) : Acts .verify (execVerify s) s := by
  unfold execVerify
  split
  case h_1 => exact ⟨_, rfl, .raise s (by decide) _ (by decide) (by decide)⟩
  case h_2 => exact ⟨_, rfl, .bystander (.of_ports rfl) rfl (fun _ => rfl) (by decide) (by decide)⟩

theorem execTick_acts (s : State) : Acts .tick (execTick s) s := by
  unfold execTick
  dsimp only
  split
  case isTrue h => exact ⟨_, rfl, .senderTick h.1 h.2⟩
  case isFalse => exact ⟨_, rfl, .idleTick⟩

theorem execRxReserved_acts (f : RxOther) (s : State) : Acts (.rxReserved f) (execRxReserved f s) s := by
  cases f with
  | typed type g => exact ⟨_, rfl, .frame rfl⟩
  | noHeader raw => exact ⟨_, rfl, .frame rfl⟩

/-- Every instruction but the register write that stands for a command (log 12). -/
theorem exec_acts {i : Instr} (hcmd : ∀ v, i ≠ .regWr cmdIndex v) (s : State) : Acts i (exec i s) s := by
  cases i with
  | nop => exact ⟨_, rfl, .ports rfl rfl (by decide) (by decide)⟩
  | run => exact execRun_acts s
  | softReset => exact ⟨_, rfl, .softReset⟩
  | errClr =>
    exact ⟨_, rfl, .bystander (clearError_leavesConnection s) rfl (fun h => absurd rfl h) (by decide)
      (by decide)⟩
  | csum => exact execCsum_acts s
  | encode => exact execEncode_acts s
  | decode => exact execDecode_acts s
  | verify => exact execVerify_acts s
  | badCmd op => exact ⟨_, rfl, .raise s (by decide) _ (by simp) (by simp)⟩
  | regRd index => exact ⟨_, rfl, .ports rfl rfl (by simp) (by simp)⟩
  | regWr index data =>
    have hne : index ≠ cmdIndex := fun h => hcmd data (h ▸ rfl)
    obtain ⟨hnow, hvalid⟩ := writeReg_now_fValid s index data
    exact ⟨_, exec_regWr_of_ne_cmd hne data s, .bystander (writeReg_leavesConnection s index data) hnow
      (fun h => absurd hvalid h) (by simp) (by simp)⟩
  | bufRd code offset => exact ⟨_, rfl, .ports rfl rfl (by simp) (by simp)⟩
  | bufWr code offset data =>
    have hframe := writeBuf_frame s code offset.toNat data
    have hmem (hm : MemoryOk s) := writeBuf_keeps_memoryOk hm code offset.toNat data
    refine ⟨_, rfl, .bystander ⟨?_, ?_, ?_, ?_, hmem⟩ ?_ ?_ (by simp) (by simp)⟩ <;> rw [hframe] <;> simp
  | rxStart f => exact ⟨_, rfl, .frame rfl⟩
  | rxEnd f => exact ⟨_, rfl, .frame rfl⟩
  | rxData f => exact ⟨_, rfl, .frame rfl⟩
  | rxAck f => exact ⟨_, rfl, .frame rfl⟩
  | rxReserved f => exact execRxReserved_acts f s
  | txStart => exact ⟨_, rfl, .ports rfl rfl (by decide) (by decide)⟩
  | txEnd e => exact ⟨_, rfl, .ports rfl rfl (by simp) (by simp)⟩
  | txData q p => exact ⟨_, rfl, .ports rfl rfl (by simp) (by simp)⟩
  | txAck a => exact ⟨_, rfl, .ports rfl rfl (by simp) (by simp)⟩
  | tick => exact execTick_acts s
  | reset => exact ⟨_, rfl, .reset⟩

theorem effect_of_exec {i : Instr} {s t : State} (hcmd : ∀ v, i ≠ .regWr cmdIndex v)
    (h : exec i s = .next t) : Effect s i t := by
  obtain ⟨u, hu, heffect⟩ := exec_acts hcmd s
  obtain rfl : u = t := Host.Outcome.next.inj (hu.symm.trans h)
  exact heffect

theorem WellFormed.ne_regWr_cmd {i : Instr} (h : WellFormed i = true) (v : Word) :
    i ≠ .regWr cmdIndex v := by
  rintro rfl
  simp [WellFormed] at h

/-! ## NOW -/

theorem ReceivesOnly.now {s t : State} (h : ReceivesOnly s t) : t.now = s.now := by
  rw [h]

theorem SendsOnly.now {s t : State} (h : SendsOnly s t) : t.now = s.now :=
  h.receives.now

theorem Effect.now {i : Instr} {s t : State} (h : Effect s i t) :
    t.now = if i = .tick then s.now + 1 else if i = .reset then 0 else s.now := by
  cases h with
  | bystander _ hnow _ htick hreset => rw [if_neg htick, if_neg hreset, hnow]
  | start =>
    have hstart : (roleStart (initConnection s)).now = s.now := by unfold roleStart; split <;> rfl
    simpa using hstart
  | softReset => rfl
  | reset => rfl
  | idleTick => rfl
  | senderTick => exact (senderTimer_sendsOnly _).now
  | frame hrx =>
    have htick : i ≠ .tick := by rintro rfl; simp [rxOutcome] at hrx
    have hreset : i ≠ .reset := by rintro rfl; simp [rxOutcome] at hrx
    rw [if_neg htick, if_neg hreset]
    exact (rxEvent_receivesOnly _ s).now

/-- A register write to CMD runs the command its low byte names (46_host_control R311, log 12). -/
theorem exec_regWr_cmd (v : Word) (s : State) : exec (.regWr cmdIndex v) s = exec (decodeCommand v) s := by
  show execOpcode (v.setWidth 8) s = exec (decodeOpcode (v.setWidth 8)) s
  generalize v.setWidth 8 = op
  unfold execOpcode decodeOpcode
  simp only [← BitVec.toNat_inj]
  split <;> simp_all <;> rfl

theorem decodeCommand_ne (v : Word) :
    decodeCommand v ≠ .tick ∧ decodeCommand v ≠ .reset ∧ ∀ i d, decodeCommand v ≠ .regWr i d := by
  unfold decodeCommand decodeOpcode
  repeat' split
  all_goals simp

/-- Settles O48: from the effect of the instruction, or of the command that a write to CMD stands for. -/
theorem nowCountsTicksOnly : Obligations.NowCountsTicksOnly := by
  intro i s t h
  by_cases hcmd : ∃ v, i = .regWr cmdIndex v
  case pos =>
    obtain ⟨v, rfl⟩ := hcmd
    obtain ⟨htick, hreset, hregWr⟩ := decodeCommand_ne v
    have heffect := effect_of_exec (fun d => hregWr cmdIndex d) ((exec_regWr_cmd v s).symm.trans h)
    simpa [htick, hreset] using heffect.now
  case neg => exact (effect_of_exec (fun v hv => hcmd ⟨v, hv⟩) h).now

end Sys2Proof.Machine
end

section
/-! What a received frame and a timer can do to the engine, and from it to the flags (10_state R50). -/

namespace Sys2Proof.Machine

/-! ## The sender's operations move the window only -/

/-- Of the engine, only the handshake state and the sender's own fields change. -/
def MovesWindow (s t : State) : Prop :=
  t.eng = { s.eng with
    hs := t.eng.hs, base := t.eng.base, nextAck := t.eng.nextAck, sentHi := t.eng.sentHi,
    waitStart := t.eng.waitStart, pollStart := t.eng.pollStart, slots := t.eng.slots }

theorem MovesWindow.trans {s t u : State} (h : MovesWindow s t) (h' : MovesWindow t u) : MovesWindow s u := by
  unfold MovesWindow at *
  rw [h', h]

theorem startRetry_movesWindow (s : State) : MovesWindow s (startRetry s) := by
  unfold startRetry; split <;> rfl

theorem endRetry_movesWindow (s : State) : MovesWindow s (endRetry s) := by
  unfold endRetry; split <;> rfl

theorem cumulativeAdvance_movesWindow (s : State) : MovesWindow s (cumulativeAdvance s) := by
  unfold cumulativeAdvance; split <;> rfl

theorem cumulativeStart_movesWindow (s : State) : MovesWindow s (cumulativeStart s) := by
  unfold cumulativeStart; dsimp only; split <;> rfl

theorem cumulativeAck_movesWindow (a : Word) (s : State) : MovesWindow s (cumulativeAck a s) := by
  unfold cumulativeAck
  split
  case isTrue =>
    have hmove : MovesWindow s { s with eng := { s.eng with base := a, nextAck := addWord a 1 } } := rfl
    exact hmove.trans (cumulativeAdvance_movesWindow _)
  case isFalse => rfl

theorem cumulativeTimeout_movesWindow (s : State) : MovesWindow s (cumulativeTimeout s) := by
  unfold cumulativeTimeout; split <;> rfl

theorem selectiveMark_movesWindow (r : Option Parsed) (s : State) : MovesWindow s (selectiveMark r s) := by
  unfold selectiveMark
  repeat' split
  all_goals rfl

theorem slideLoop_movesWindow (n : Nat) (s : State) : MovesWindow s (slideLoop n s) := by
  induction n generalizing s with
  | zero => rfl
  | succ n ih =>
    by_cases hturn : s.eng.base.toNat < s.eng.endSeq.toNat ∧ (slotOf s s.eng.base.toNat).acked = true
    case pos =>
      rw [slideLoop_turn n s hturn]
      have hmove : MovesWindow s { s with eng := { s.eng with
        base := s.eng.base + 1, slots := Slots.write s.eng.slots s.eng.base.toNat Slot.empty } } := rfl
      exact hmove.trans (ih _)
    case neg => rw [slideLoop_stop _ s hturn]; rfl

theorem sendLoop_movesWindow (n q : Nat) (s : State) : MovesWindow s (sendLoop n q s) := by
  induction n generalizing q s with
  | zero => rfl
  | succ n ih =>
    have hslot : MovesWindow s (sendSlot q s) := by rw [(sendSlot_spec q s).2]; rfl
    exact hslot.trans (ih _ _)

theorem selectiveContinue_movesWindow (s : State) : MovesWindow s (selectiveContinue s) := by
  unfold selectiveContinue
  split
  case isTrue => rfl
  case isFalse => exact (sendLoop_movesWindow _ _ _).trans rfl

theorem pollFrame_movesWindow (r : Option Parsed) (s : State) : MovesWindow s (pollFrame r s) :=
  ((selectiveMark_movesWindow r s).trans (slideLoop_movesWindow _ _)).trans (selectiveContinue_movesWindow _)

theorem pollTimeout_movesWindow (s : State) : MovesWindow s (pollTimeout s) := by
  unfold pollTimeout
  split
  case isTrue => exact ((slideLoop_movesWindow _ _).trans (sendLoop_movesWindow _ _ _)).trans rfl
  case isFalse => rfl

/-- A START-ACK that is not the one expected is dropped; the other opens the mode's data phase. -/
theorem senderStartAck_cases (a : Word) (s : State) :
    senderStartAck a s = s ∨
    s.cfg.mode = .cumulative ∧
      senderStartAck a s = cumulativeStart { s with eng := { s.eng with hs := .established } } ∨
    s.cfg.mode = .selective ∧
      senderStartAck a s = selectiveStart { s with eng := { s.eng with hs := .established } } := by
  unfold senderStartAck
  split
  case isTrue =>
    dsimp only
    split
    case h_1 hmode => exact .inr (.inl ⟨hmode, rfl⟩)
    case h_2 hmode => exact .inr (.inr ⟨hmode, rfl⟩)
  case isFalse => exact .inl rfl

theorem senderStartAck_movesWindow (a : Word) (s : State) : MovesWindow s (senderStartAck a s) := by
  have hopen : MovesWindow s { s with eng := { s.eng with hs := .established } } := rfl
  rcases senderStartAck_cases a s with h | ⟨_, h⟩ | ⟨_, h⟩ <;> rw [h]
  · rfl
  · exact hopen.trans (cumulativeStart_movesWindow _)
  · have hbase : MovesWindow { s with eng := { s.eng with hs := .established } }
      { s with eng := { s.eng with hs := .established, base := origin s.cfg.mode } } := rfl
    exact (hopen.trans hbase).trans (selectiveContinue_movesWindow _)

theorem senderTimer_movesWindow (s : State) : MovesWindow s (senderTimer s) := by
  unfold senderTimer
  split
  case h_1 => exact startRetry_movesWindow s
  case h_2 =>
    split
    case h_1 => exact cumulativeTimeout_movesWindow s
    case h_2 => exact pollTimeout_movesWindow s
  case h_3 => exact endRetry_movesWindow s
  case h_4 => rfl
  case h_5 => rfl

/-- The engine of a connection that this step brought to CLOSED. -/
def Closes (s t : State) : Prop :=
  t.eng = { s.eng with hs := .closed, running := false, done := true }

theorem validSeq_eq_some {type a : Word} {r : Option Parsed} (h : validSeq type r = some a) :
    ∃ f, r = some f ∧ f.hdr.type = type := by
  cases r with
  | none => cases h
  | some f =>
    rw [validSeq_some] at h
    split at h
    case isTrue hf => exact ⟨f, rfl, hf.2⟩
    case isFalse => cases h

/-- Only an ACK that arrives in CLOSING ends a sender's connection (42_handshake R196). -/
theorem rxSender_cases (r : Option Parsed) (s : State) :
    MovesWindow s (rxSender r s) ∨
      (∃ f, r = some f ∧ f.hdr.type = typeAck) ∧ rxSender r s = closeConnection s := by
  unfold rxSender
  split
  case isTrue => exact .inl (pollFrame_movesWindow r s)
  case isFalse =>
    split
    case h_2 => exact .inl rfl
    case h_1 a ha =>
      unfold senderAck
      split
      case h_1 => exact .inl (senderStartAck_movesWindow a s)
      case h_2 => exact .inl (cumulativeAck_movesWindow a s)
      case h_3 =>
        unfold endAck
        split
        case isTrue => exact .inr ⟨validSeq_eq_some ha, rfl⟩
        case isFalse => exact .inl rfl
      case h_4 => exact .inl rfl
      case h_5 => exact .inl rfl

/-! ## The receiver's operations deliver, or end in the engine fault -/

/-- Of the engine, only the receiver's own fields change. -/
def MovesBuffer (s t : State) : Prop :=
  t.eng = { s.eng with expected := t.eng.expected, rbuf := t.eng.rbuf, outLen := t.eng.outLen }

/-- The event ended in the engine fault OUT_OVERFLOW (60_exceptions R343). -/
def Overflows (s t : State) : Prop :=
  t.eng = { s.eng with
    expected := t.eng.expected, rbuf := t.eng.rbuf, outLen := t.eng.outLen,
    err := .outOverflow, errInfo := t.eng.errInfo, fault := true, running := false }

theorem MovesBuffer.trans {s t u : State} (h : MovesBuffer s t) (h' : MovesBuffer t u) : MovesBuffer s u := by
  unfold MovesBuffer at *
  rw [h', h]

theorem MovesBuffer.overflows {s t u : State} (h : MovesBuffer s t) (h' : Overflows t u) : Overflows s u := by
  unfold MovesBuffer at h
  unfold Overflows at *
  rw [h', h]

theorem engineFault_overflows (info : Word) (s : State) : Overflows s (engineFault .outOverflow info s) := rfl

theorem deliver_eq_ok {q : Word} {p : Bytes} {s t : State} (h : deliver q p s = .ok t) :
    s.eng.outLen.toNat + p.length ≤ s.build.outCap ∧
    t = { s with
      outbuf := s.outbuf.writeBytes s.eng.outLen.toNat p
      eng := { s.eng with outLen := addWord s.eng.outLen p.length, expected := s.eng.expected + 1 } } := by
  unfold deliver at h
  split at h
  case isTrue => cases h
  case isFalse hfits => cases h; exact ⟨Nat.le_of_not_lt hfits, rfl⟩

theorem deliver_eq_error {q : Word} {p : Bytes} {s t : State} (h : deliver q p s = .error t) :
    t = engineFault .outOverflow q s := by
  unfold deliver at h
  split at h
  case isTrue => cases h; rfl
  case isFalse => cases h

/-- The state after one turn of the drain that delivers `p` (45_receiver_reorder R281, R282). -/
def drained (p : Bytes) (s : State) : State :=
  { s with
    outbuf := s.outbuf.writeBytes s.eng.outLen.toNat p
    eng := { s.eng with
      outLen := addWord s.eng.outLen p.length, expected := s.eng.expected + 1,
      rbuf := Store.erase s.eng.rbuf s.eng.expected.toNat } }

/-- One turn of the drain: it stops, goes on after a delivery, or meets the engine fault. -/
theorem drainLoop_succ_cases (n : Nat) (s : State) :
    drainLoop (n + 1) s = .ok s ∨
    (∃ p, Store.find? s.eng.rbuf s.eng.expected.toNat = some p ∧
      s.eng.outLen.toNat + p.length ≤ s.build.outCap ∧ drainLoop (n + 1) s = drainLoop n (drained p s)) ∨
    drainLoop (n + 1) s = .error (engineFault .outOverflow s.eng.expected s) := by
  cases hfind : Store.find? s.eng.rbuf s.eng.expected.toNat with
  | none => exact .inl (drainLoop_stop _ s hfind)
  | some p =>
    rcases Nat.lt_or_ge s.build.outCap (s.eng.outLen.toNat + p.length) with hover | hfits
    · exact .inr (.inr (drainLoop_fault n s p hfind hover))
    · exact .inr (.inl ⟨p, rfl, hfits, drainLoop_turn n s p hfind hfits⟩)

theorem drained_movesBuffer (p : Bytes) (s : State) : MovesBuffer s (drained p s) := rfl

theorem drainLoop_ok_movesBuffer {n : Nat} {s t : State} (h : drainLoop n s = .ok t) : MovesBuffer s t := by
  induction n generalizing s with
  | zero => cases h; rfl
  | succ n ih =>
    rcases drainLoop_succ_cases n s with e | ⟨p, _, _, e⟩ | e <;> rw [e] at h
    · cases h; rfl
    · exact (drained_movesBuffer p s).trans (ih h)
    · cases h

theorem drainLoop_error_overflows {n : Nat} {s t : State} (h : drainLoop n s = .error t) : Overflows s t := by
  induction n generalizing s with
  | zero => cases h
  | succ n ih =>
    rcases drainLoop_succ_cases n s with e | ⟨p, _, _, e⟩ | e <;> rw [e] at h
    · cases h
    · exact (drained_movesBuffer p s).overflows (ih h)
    · cases h; rfl

/-- How a DATA frame with the expected number ends (45_receiver_reorder R281, R282). -/
theorem receiveData_inOrder_cases {q : Word} {p : Bytes} {s : State} (h : dataCase s q = .inOrder) :
    receiveData q p s = engineFault .outOverflow q s ∨
    ∃ t, deliver q p s = .ok t ∧
      (drain t = .error (receiveData q p s) ∨
        ∃ u, drain t = .ok u ∧ receiveData q p s = ackData .inOrder q u) := by
  rw [receiveData_inOrder h]
  cases hd : deliver q p s with
  | error u => exact .inl (deliver_eq_error hd)
  | ok t => cases hl : drain t <;> simp [hl]

theorem ackData_eng (c : DataCase) (q : Word) (s : State) : (ackData c q s).eng = s.eng := by
  unfold ackData; split <;> rfl

theorem bufferAhead_movesBuffer (q : Word) (p : Bytes) (s : State) : MovesBuffer s (bufferAhead q p s) := by
  unfold bufferAhead; split <;> rfl

theorem ackData_movesBuffer {s t : State} (h : MovesBuffer s t) (c : DataCase) (q : Word) :
    MovesBuffer s (ackData c q t) := by
  unfold MovesBuffer at *
  rw [ackData_eng, h]

theorem receiveData_cases (q : Word) (p : Bytes) (s : State) :
    MovesBuffer s (receiveData q p s) ∨ Overflows s (receiveData q p s) := by
  cases hc : dataCase s q with
  | inOrder =>
    rcases receiveData_inOrder_cases (p := p) hc with e | ⟨t, hd, hl⟩
    · rw [e]; exact .inr (engineFault_overflows q s)
    · have hdeliver : MovesBuffer s t := by rw [(deliver_eq_ok hd).2]; rfl
      rcases hl with hl | ⟨u, hl, e⟩
      · exact .inr (hdeliver.overflows (drainLoop_error_overflows hl))
      · rw [e]
        exact .inl (ackData_movesBuffer (hdeliver.trans (drainLoop_ok_movesBuffer hl)) _ q)
  | ahead =>
    simp only [receiveData, hc]
    exact .inl (ackData_movesBuffer (bufferAhead_movesBuffer q p s) _ q)
  | behind =>
    simp only [receiveData, hc]
    exact .inl (ackData_movesBuffer rfl _ q)
  | outOfWindow =>
    simp only [receiveData, hc]
    exact .inl (ackData_movesBuffer rfl _ q)

/-- What a frame can do to a running receiver (46_host_control R322). -/
theorem rxReceiver_cases (r : Option Parsed) (s : State) :
    SendsOnly s (rxReceiver r s) ∧
      ((rxReceiver r s).eng = s.eng ∨
        s.eng.hs = .idle ∧ (rxReceiver r s).eng = { s.eng with hs := .established } ∨
        (∃ f, r = some f ∧ f.hdr.type = typeEnd) ∧ Closes s (rxReceiver r s)) ∨
    ∃ f, r = some f ∧ f.hdr.type = typeData ∧ s.eng.hs = .established ∧
      rxReceiver r s = receiveData f.hdr.seq f.payload s := by
  unfold rxReceiver
  split
  case h_1 hidle =>
    unfold receiverListen
    split
    case isTrue => exact .inl ⟨rfl, .inr (.inl ⟨hidle, rfl⟩)⟩
    case isFalse => exact .inl ⟨rfl, .inl rfl⟩
  case h_2 hest =>
    unfold receiverFrame
    split
    case isTrue => exact .inl ⟨rfl, .inl rfl⟩
    case isFalse =>
      split
      case h_1 => exact .inl ⟨rfl, .inl rfl⟩
      case h_2 f _ =>
        split
        case isTrue => exact .inl ⟨rfl, .inl rfl⟩
        case isFalse =>
          split
          case isTrue hdata => exact .inr ⟨f, rfl, hdata, hest, rfl⟩
          case isFalse =>
            split
            case isTrue hend =>
              unfold receiverEnd
              split
              case isTrue => exact .inl ⟨rfl, .inr (.inr ⟨⟨f, rfl, hend⟩, rfl⟩)⟩
              case isFalse => exact .inl ⟨rfl, .inl rfl⟩
            case isFalse => exact .inl ⟨rfl, .inl rfl⟩
  case h_3 => exact .inl ⟨rfl, .inl rfl⟩
  case h_4 => exact .inl ⟨rfl, .inl rfl⟩
  case h_5 => exact .inl ⟨rfl, .inl rfl⟩

/-! ## The flags -/

/-- RUNNING, DONE and FAULT stay. -/
def KeepsFlags (s t : State) : Prop :=
  t.eng.running = s.eng.running ∧ t.eng.done = s.eng.done ∧ t.eng.fault = s.eng.fault

theorem MovesWindow.keepsFlags {s t : State} (h : MovesWindow s t) : KeepsFlags s t := by
  unfold KeepsFlags
  rw [h]
  exact ⟨rfl, rfl, rfl⟩

theorem MovesBuffer.keepsFlags {s t : State} (h : MovesBuffer s t) : KeepsFlags s t := by
  unfold KeepsFlags
  rw [h]
  exact ⟨rfl, rfl, rfl⟩

theorem Closes.flags {s t : State} (h : Closes s t) :
    t.eng.running = false ∧ t.eng.done = true ∧ t.eng.fault = s.eng.fault ∧ t.eng.hs = .closed := by
  rw [h]
  exact ⟨rfl, rfl, rfl, rfl⟩

theorem Overflows.flags {s t : State} (h : Overflows s t) :
    t.eng.running = false ∧ t.eng.done = s.eng.done ∧ t.eng.fault = true ∧ t.eng.err = .outOverflow := by
  rw [h]
  exact ⟨rfl, rfl, rfl, rfl⟩

theorem LeavesConnection.keepsFlags {s t : State} (h : LeavesConnection s t) : KeepsFlags s t := by
  unfold KeepsFlags
  rw [h.engine]
  exact ⟨rfl, rfl, rfl⟩

theorem rxEvent_flags (r : Option Parsed) (s : State) :
    KeepsFlags s (rxEvent r s) ∨
    (∃ f, r = some f ∧ (f.hdr.type = typeEnd ∨ f.hdr.type = typeAck)) ∧ Closes s (rxEvent r s) ∨
    (∃ f, r = some f ∧ f.hdr.type = typeData) ∧ Overflows s (rxEvent r s) := by
  unfold rxEvent
  split
  case isTrue => exact .inl ⟨rfl, rfl, rfl⟩
  case isFalse =>
    split
    case h_1 =>
      rcases rxSender_cases r s with hmove | ⟨⟨f, hr, hack⟩, hclose⟩
      · exact .inl hmove.keepsFlags
      · exact .inr (.inl ⟨⟨f, hr, .inr hack⟩, congrArg State.eng hclose⟩)
    case h_2 =>
      rcases rxReceiver_cases r s with
        ⟨_, hsame | ⟨_, hlisten⟩ | ⟨⟨f, hr, hend⟩, hclose⟩⟩ | ⟨f, hr, hdata, _, hrecv⟩
      · exact .inl (by simp [KeepsFlags, hsame])
      · exact .inl (by simp [KeepsFlags, hlisten])
      · exact .inr (.inl ⟨⟨f, hr, .inl hend⟩, hclose⟩)
      · rw [hrecv]
        rcases receiveData_cases f.hdr.seq f.payload s with hmove | hover
        · exact .inl hmove.keepsFlags
        · exact .inr (.inr ⟨⟨f, hr, hdata⟩, hover⟩)

/-- The row of a well-formed received frame is the row of its type (30_encoding R112). -/
theorem rxOutcome_row {i : Instr} {f : Parsed} (hwf : WellFormed i = true) (h : rxOutcome i = some (some f)) :
    (f.hdr.type = typeStart ∧ ∃ g, i = .rxStart g) ∨ (f.hdr.type = typeEnd ∧ ∃ g, i = .rxEnd g) ∨
    (f.hdr.type = typeData ∧ ∃ g, i = .rxData g) ∨ (f.hdr.type = typeAck ∧ ∃ g, i = .rxAck g) ∨
    4 ≤ f.hdr.type.toNat := by
  unfold rxOutcome at h
  split at h
  case h_1 g => cases h; exact .inl ⟨rfl, g, rfl⟩
  case h_2 g => cases h; exact .inr (.inl ⟨rfl, g, rfl⟩)
  case h_3 g => cases h; exact .inr (.inr (.inl ⟨rfl, g, rfl⟩))
  case h_4 g => cases h; exact .inr (.inr (.inr (.inl ⟨rfl, g, rfl⟩)))
  case h_5 type g =>
    cases h
    have htype : 4 ≤ type.toNat ∧ g.WellFormed := of_decide_eq_true hwf
    exact .inr (.inr (.inr (.inr htype.1)))
  case h_6 => cases h
  case h_7 => cases h

theorem rxOutcome_end_or_ack {i : Instr} {f : Parsed} (hwf : WellFormed i = true)
    (h : rxOutcome i = some (some f)) (ht : f.hdr.type = typeEnd ∨ f.hdr.type = typeAck) :
    ∃ g, i = .rxEnd g ∨ i = .rxAck g := by
  rcases rxOutcome_row hwf h with ⟨e, _⟩ | ⟨_, g, hi⟩ | ⟨e, _⟩ | ⟨_, g, hi⟩ | hge
  · rw [e] at ht; simp at ht
  · exact ⟨g, .inl hi⟩
  · rw [e] at ht; simp at ht
  · exact ⟨g, .inr hi⟩
  · rcases ht with e | e <;> rw [e] at hge <;> simp at hge

theorem rxOutcome_data {i : Instr} {f : Parsed} (hwf : WellFormed i = true)
    (h : rxOutcome i = some (some f)) (ht : f.hdr.type = typeData) : ∃ g, i = .rxData g := by
  rcases rxOutcome_row hwf h with ⟨e, _⟩ | ⟨e, _⟩ | ⟨_, hi⟩ | ⟨e, _⟩ | hge
  · rw [e] at ht; simp at ht
  · rw [e] at ht; simp at ht
  · exact hi
  · rw [e] at ht; simp at ht
  · rw [ht] at hge; simp at hge

theorem roleStart_initConnection_flags (s : State) :
    let t := roleStart (initConnection s)
    t.eng.running = true ∧ t.eng.done = false ∧ t.eng.fault = s.eng.fault := by
  unfold roleStart
  split <;> exact ⟨rfl, rfl, rfl⟩

/-- The five ways of the flag table (10_state R50). -/
theorem Effect.flags {i : Instr} {s t : State} (hwf : WellFormed i = true) (h : Effect s i t) :
    KeepsFlags s t ∨
    ((i = .run ∧ s.eng.fault = false) ∧
      t.eng.running = true ∧ t.eng.done = false ∧ t.eng.fault = s.eng.fault) ∨
    ((i = .reset ∨ i = .softReset) ∧ t.eng = Engine.reset) ∨
    ((∃ f, i = .rxEnd f ∨ i = .rxAck f) ∧ Closes s t) ∨
    ((∃ f, i = .rxData f) ∧ Overflows s t) := by
  cases h with
  | bystander hleaves => exact .inl hleaves.keepsFlags
  | start hfault => exact .inr (.inl ⟨⟨rfl, hfault⟩, roleStart_initConnection_flags s⟩)
  | softReset => exact .inr (.inr (.inl ⟨.inr rfl, rfl⟩))
  | reset => exact .inr (.inr (.inl ⟨.inl rfl, rfl⟩))
  | idleTick => exact .inl ⟨rfl, rfl, rfl⟩
  | senderTick => exact .inl (senderTimer_movesWindow _).keepsFlags
  | @frame i r hrx =>
    rcases rxEvent_flags r s with hkeep | ⟨⟨f, rfl, ht⟩, hclose⟩ | ⟨⟨f, rfl, ht⟩, hover⟩
    · exact .inl hkeep
    · exact .inr (.inr (.inr (.inl ⟨rxOutcome_end_or_ack hwf hrx ht, hclose⟩)))
    · exact .inr (.inr (.inr (.inr ⟨rxOutcome_data hwf hrx ht, hover⟩)))

theorem ReceivesOnly.codec {s t : State} (h : ReceivesOnly s t) : t.codec = s.codec := by
  rw [h]

/-- F_VALID changes by VERIFY or RESET only. -/
theorem Effect.fValid {i : Instr} {s t : State} (h : Effect s i t) (hne : t.codec.fValid ≠ s.codec.fValid) :
    i = .verify ∨ i = .reset := by
  cases h with
  | bystander _ _ hvalid => exact .inl (hvalid hne)
  | start =>
    have hstart : (roleStart (initConnection s)).codec = s.codec := by unfold roleStart; split <;> rfl
    exact absurd (congrArg _ hstart) hne
  | softReset => exact absurd rfl hne
  | reset => exact .inr rfl
  | idleTick => exact absurd rfl hne
  | senderTick => exact absurd (congrArg CodecRegs.fValid (senderTimer_sendsOnly _).receives.codec) hne
  | frame => exact absurd (congrArg CodecRegs.fValid (rxEvent_receivesOnly _ s).codec) hne

/-- Settles O50: each of the five ways the flags can go meets the clauses of the table. -/
theorem flagsChangeOnlyByTheirEvents : Obligations.FlagsChangeOnlyByTheirEvents := by
  intro i s t hwf hexec
  have heffect := effect_of_exec (WellFormed.ne_regWr_cmd hwf) hexec
  have hvalid := heffect.fValid
  rcases heffect.flags hwf with
    ⟨hrunning, hdone, hfault⟩ | ⟨⟨hrun, hclear⟩, hrunning, hdone, hfault⟩ | ⟨hreset, heng⟩ |
    ⟨hrow, hclose⟩ | ⟨hrow, hover⟩
  · simp_all
  · simp_all
  · simp_all [Engine.reset]
  · obtain ⟨hrunning, hdone, hfault, hclosed⟩ := hclose.flags
    simp_all
  · obtain ⟨hrunning, hdone, hfault, herr⟩ := hover.flags
    simp_all

end Sys2Proof.Machine
end

section
/-! The numbers and tables of a running sender (10_state R58 items 1 to 3): every operation of the sender
keeps them. -/

namespace Sys2Proof.Machine

/-! ## The part that holds in every phase -/

/-- The clauses of `SenderOk` that no handshake state conditions. -/
structure WindowOk (s : State) : Prop where
  total           : s.eng.total.toNat = packetCount s.cfg
  endSeq          : s.eng.endSeq.toNat = (origin s.cfg.mode).toNat + packetCount s.cfg
  baseLow         : (origin s.cfg.mode).toNat ≤ s.eng.base.toNat
  baseHigh        : s.eng.base.toNat ≤ s.eng.endSeq.toNat
  cumulativeSlots : s.cfg.mode = .cumulative → s.eng.slots = []
  slotsSorted     : Store.Sorted s.eng.slots
  slotsWindow     : ∀ e ∈ s.eng.slots, s.eng.base.toNat ≤ e.1 ∧ e.1 < windowEnd s
  slotsUsed       : ∀ e ∈ s.eng.slots, e.2 ≠ Slot.empty

theorem SenderOk.windowOk {s : State} (h : SenderOk s) : WindowOk s :=
  { h with }

/-- The window does not read the handshake state, the waits, NEXT_ACK and SENT_HI. -/
theorem WindowOk.congr {s t : State} (h : WindowOk s) (hcfg : t.cfg = s.cfg)
    (htotal : t.eng.total = s.eng.total) (hend : t.eng.endSeq = s.eng.endSeq)
    (hbase : t.eng.base = s.eng.base) (hslots : t.eng.slots = s.eng.slots) : WindowOk t := by
  constructor <;> simp only [hcfg, htotal, hend, hbase, hslots, windowEnd]
  exacts [h.total, h.endSeq, h.baseLow, h.baseHigh, h.cumulativeSlots, h.slotsSorted, h.slotsWindow,
    h.slotsUsed]

theorem WindowOk.base_le_windowEnd {s : State} (h : WindowOk s) : s.eng.base.toNat ≤ windowEnd s :=
  le_min (Nat.le_add_right _ _) h.baseHigh

theorem slotOf_of_slots_nil {s : State} (h : s.eng.slots = []) (q : Nat) : slotOf s q = Slot.empty := by
  simp only [slotOf, h]
  rfl

theorem WindowOk.senderOk_of_closing {s : State} (h : WindowOk s) (hhs : s.eng.hs = .closing)
    (hbase : s.eng.base = s.eng.endSeq) : SenderOk s :=
  { h with
    opening := by simp [hhs]
    established := by simp [hhs]
    closing := fun _ => hbase
    cumulative := by simp [hhs]
    baseUnacked := by simp [hbase] }

theorem WindowOk.senderOk_of_cumulative {s : State} (h : WindowOk s) (hmode : s.cfg.mode = .cumulative)
    (hhs : s.eng.hs = .established) (hlt : s.eng.base.toNat < s.eng.endSeq.toNat)
    (hnext : s.eng.nextAck.toNat = s.eng.base.toNat + 1) (hsent : s.eng.sentHi.toNat = windowEnd s) :
    SenderOk s :=
  { h with
    opening := by simp [hhs]
    established := fun _ => hlt
    closing := by simp [hhs]
    cumulative := fun _ _ => ⟨hnext, hsent ▸ h.base_le_windowEnd, hsent⟩
    baseUnacked := fun _ => by rw [slotOf_of_slots_nil (h.cumulativeSlots hmode)]; rfl }

theorem WindowOk.senderOk_of_selective {s : State} (h : WindowOk s) (hmode : s.cfg.mode = .selective)
    (hhs : s.eng.hs = .established) (hlt : s.eng.base.toNat < s.eng.endSeq.toNat)
    (hunacked : (slotOf s s.eng.base.toNat).acked = false) : SenderOk s :=
  { h with
    opening := by simp [hhs]
    established := fun _ => hlt
    closing := by simp [hhs]
    cumulative := by simp [hmode]
    baseUnacked := fun _ => hunacked }

/-- A sender's handshake state and numbers while its connection runs (46_host_control R323). -/
def SenderRuns (s : State) : Prop :=
  (s.eng.hs = .establishing ∨ s.eng.hs = .established ∨ s.eng.hs = .closing) ∧ SenderOk s

/-- What a retry, a whole window sent again or an error record changes is not read by `SenderOk`. -/
theorem SenderOk.congr {s t : State} (h : SenderOk s) (hcfg : t.cfg = s.cfg) {w p i : Word} {c : ErrCode}
    (heng : t.eng = { s.eng with waitStart := w, pollStart := p, err := c, errInfo := i }) : SenderOk t := by
  constructor <;> simp only [hcfg, heng, windowEnd, slotOf]
  exacts [h.total, h.endSeq, h.baseLow, h.baseHigh, h.opening, h.established, h.closing, h.cumulative,
    h.cumulativeSlots, h.slotsSorted, h.slotsWindow, h.slotsUsed, h.baseUnacked]

theorem SenderRuns.restart_wait {s t : State} (h : SenderRuns s) (hcfg : t.cfg = s.cfg) {w : Word}
    (heng : t.eng = { s.eng with waitStart := w }) : SenderRuns t :=
  ⟨by rw [heng]; exact h.1, h.2.congr hcfg heng⟩

theorem closeEntry_senderRuns {s : State} (h : WindowOk s) (hbase : s.eng.base = s.eng.endSeq) :
    SenderRuns (closeEntry s) := by
  have hclosing : WindowOk (closeEntry s) := h.congr rfl rfl rfl rfl rfl
  exact ⟨.inr (.inr rfl), hclosing.senderOk_of_closing rfl hbase⟩

theorem startRetry_senderRuns {s : State} (h : SenderRuns s) : SenderRuns (startRetry s) := by
  unfold startRetry
  split
  case isTrue => exact h.restart_wait rfl rfl
  case isFalse => exact h

theorem endRetry_senderRuns {s : State} (h : SenderRuns s) : SenderRuns (endRetry s) := by
  unfold endRetry
  split
  case isTrue => exact h.restart_wait rfl rfl
  case isFalse => exact h

/-! ## Cumulative mode (43_sender_cumulative) -/

theorem cumulativeTimeout_senderRuns {s : State} (h : SenderRuns s) : SenderRuns (cumulativeTimeout s) := by
  unfold cumulativeTimeout
  split
  case isTrue => exact h.restart_wait rfl rfl
  case isFalse => exact h

/-- A sender short of its END number, once SENT_HI stands at the window's end (R224). -/
theorem WindowOk.cumulative_sent {s t : State} (h : WindowOk s) (hmode : s.cfg.mode = .cumulative)
    (hhs : s.eng.hs = .established) (hne : s.eng.base ≠ s.eng.endSeq)
    (hnext : s.eng.nextAck.toNat = s.eng.base.toNat + 1) (hcfg : t.cfg = s.cfg) {w : Word}
    (heng : t.eng = { s.eng with sentHi := BitVec.ofNat 32 (windowEnd s), waitStart := w }) :
    SenderRuns t := by
  have hwindow : WindowOk t := h.congr hcfg (by rw [heng]) (by rw [heng]) (by rw [heng]) (by rw [heng])
  have hlt : s.eng.base.toNat < s.eng.endSeq.toNat :=
    lt_of_le_of_ne h.baseHigh fun e => hne (BitVec.eq_of_toNat_eq e)
  have hfits : windowEnd s < 2 ^ 32 := lt_of_le_of_lt (windowEnd_le s) s.eng.endSeq.isLt
  have hend : windowEnd t = windowEnd s := by simp only [windowEnd, hcfg, heng]
  refine ⟨.inr (.inl (by rw [heng]; exact hhs)),
    hwindow.senderOk_of_cumulative (by rw [hcfg]; exact hmode) (by rw [heng]; exact hhs)
      (by rw [heng]; exact hlt) (by rw [heng]; exact hnext) ?_⟩
  rw [hend, heng]
  exact Nat.mod_eq_of_lt hfits

theorem cumulativeStart_senderRuns {s : State} (h : WindowOk s) (hmode : s.cfg.mode = .cumulative)
    (hhs : s.eng.hs = .established) (hbase : s.eng.base = origin s.cfg.mode) :
    SenderRuns (cumulativeStart s) := by
  have hopen : WindowOk { s with eng := { s.eng with
      base := origin s.cfg.mode, nextAck := origin s.cfg.mode + 1 } } :=
    h.congr rfl rfl rfl hbase.symm rfl
  unfold cumulativeStart
  dsimp only
  split
  case isTrue hend => exact closeEntry_senderRuns hopen hend
  case isFalse hne =>
    refine hopen.cumulative_sent hmode hhs hne ?_ rfl rfl
    show (origin s.cfg.mode + 1).toNat = (origin s.cfg.mode).toNat + 1
    rw [hmode]
    rfl

/-- After an advance the packets up to the window's end are the ones sent: none is sent twice, none left
out (R224). -/
theorem cumulativeAdvance_senderRuns {s : State} (h : WindowOk s) (hmode : s.cfg.mode = .cumulative)
    (hhs : s.eng.hs = .established)
    (hnext : s.eng.base ≠ s.eng.endSeq → s.eng.nextAck.toNat = s.eng.base.toNat + 1)
    (hsent : s.eng.sentHi.toNat ≤ windowEnd s) : SenderRuns (cumulativeAdvance s) := by
  unfold cumulativeAdvance
  split
  case isTrue hend => exact closeEntry_senderRuns h hend
  case isFalse hne =>
    refine h.cumulative_sent hmode hhs hne (hnext hne) rfl (w := s.now) ?_
    simp only [emitData_eng, emitData_now, Nat.max_eq_right hsent]

theorem windowEnd_mono {s t : State} (hcfg : t.cfg = s.cfg) (hend : t.eng.endSeq = s.eng.endSeq)
    (hbase : s.eng.base.toNat ≤ t.eng.base.toNat) : windowEnd s ≤ windowEnd t := by
  unfold windowEnd
  rw [hcfg, hend]
  omega

theorem cumulativeAck_senderRuns {s : State} (h : SenderRuns s) (hmode : s.cfg.mode = .cumulative)
    (hhs : s.eng.hs = .established) (a : Word) : SenderRuns (cumulativeAck a s) := by
  unfold cumulativeAck
  split
  case isFalse => exact h
  case isTrue hacc =>
    obtain ⟨hlow, hhigh⟩ := hacc
    obtain ⟨hnext, -, hsent⟩ := h.2.cumulative hmode hhs
    have hnil := h.2.cumulativeSlots hmode
    have hbase : s.eng.base.toNat ≤ a.toNat := by omega
    have haend : a.toNat ≤ s.eng.endSeq.toNat := hhigh.trans (windowEnd_le s)
    have hwindow : WindowOk { s with eng := { s.eng with base := a, nextAck := addWord a 1 } } :=
      { h.2.windowOk with
        baseLow := h.2.baseLow.trans hbase
        baseHigh := haend
        slotsWindow := by simp [hnil] }
    refine cumulativeAdvance_senderRuns hwindow hmode hhs (fun hne => addWord_toNat ?_) ?_
    · have hlt : a.toNat < s.eng.endSeq.toNat :=
        lt_of_le_of_ne haend fun e => hne (BitVec.eq_of_toNat_eq e)
      have := s.eng.endSeq.isLt
      omega
    · exact hsent.le.trans (windowEnd_mono rfl rfl hbase)

/-! ## Selective mode (44_sender_selective) -/

/-- What the selective engine's steps leave alone while it goes through its tables. -/
def KeepsPhase (s t : State) : Prop :=
  t.cfg = s.cfg ∧ t.eng.hs = s.eng.hs ∧ t.eng.endSeq = s.eng.endSeq

theorem KeepsPhase.trans {s t u : State} (h : KeepsPhase s t) (h' : KeepsPhase t u) : KeepsPhase s u := by
  obtain ⟨hcfg, hhs, hend⟩ := h
  obtain ⟨hcfg', hhs', hend'⟩ := h'
  exact ⟨hcfg'.trans hcfg, hhs'.trans hhs, hend'.trans hend⟩

theorem WindowOk.setSlot {s : State} (h : WindowOk s) (hmode : s.cfg.mode = .selective) {q : Nat}
    (hlow : s.eng.base.toNat ≤ q) (hhigh : q < windowEnd s) (v : Slot) : WindowOk (setSlot q v s) :=
  { h with
    cumulativeSlots := fun hc => by rw [setSlot_cfg, hmode] at hc; cases hc
    slotsSorted := Slots.sorted_write q v h.slotsSorted
    slotsWindow := fun e he => by
      rcases Slots.mem_write he with ⟨rfl, _⟩ | ⟨hold, _⟩
      · exact ⟨hlow, hhigh⟩
      · exact h.slotsWindow e hold
    slotsUsed := fun e he => by
      rcases Slots.mem_write he with ⟨rfl, hne⟩ | ⟨hold, _⟩
      · exact hne
      · exact h.slotsUsed e hold }

theorem selectiveMark_keepsPhase (r : Option Parsed) (s : State) : KeepsPhase s (selectiveMark r s) := by
  unfold selectiveMark
  repeat' split
  all_goals exact ⟨rfl, rfl, rfl⟩

/-- Only a number of the window is marked (R252). -/
theorem selectiveMark_windowOk {s : State} (h : WindowOk s) (hmode : s.cfg.mode = .selective)
    (r : Option Parsed) : WindowOk (selectiveMark r s) := by
  unfold selectiveMark
  split
  case h_1 => exact h
  case h_2 a _ =>
    split
    case isTrue hin => exact h.setSlot hmode hin.1 hin.2 _
    case isFalse => exact h

/-- A sequence number below another one does not wrap. -/
theorem toNat_add_one_of_lt {a b : Word} (h : a.toNat < b.toNat) : (a + 1).toNat = a.toNat + 1 := by
  bv_omega

theorem Slots.mem_clear {m : List (Nat × Slot)} {q : Nat} {e : Nat × Slot}
    (h : e ∈ Slots.write m q Slot.empty) : e ∈ m ∧ e.1 ≠ q := by
  rcases Slots.mem_write h with ⟨_, hne⟩ | ⟨hold, hother⟩
  · exact absurd rfl hne
  · exact ⟨hold, hother rfl⟩

/-- A turn of the slide clears the entry that it passes (R253). -/
theorem WindowOk.slide {s : State} (h : WindowOk s) (hmode : s.cfg.mode = .selective)
    (hlt : s.eng.base.toNat < s.eng.endSeq.toNat) :
    WindowOk { s with eng := { s.eng with
      base := s.eng.base + 1, slots := Slots.write s.eng.slots s.eng.base.toNat Slot.empty } } := by
  have hbase := toNat_add_one_of_lt hlt
  refine { h with
    baseLow := ?low
    baseHigh := ?high
    cumulativeSlots := fun hc => by rw [hmode] at hc; cases hc
    slotsSorted := Slots.sorted_write s.eng.base.toNat Slot.empty h.slotsSorted
    slotsWindow := fun e he => ?window
    slotsUsed := fun e he => ?used }
  case low => exact hbase ▸ h.baseLow.trans (Nat.le_succ _)
  case high => exact hbase ▸ hlt
  case window =>
    obtain ⟨hold, hpassed⟩ : e ∈ s.eng.slots ∧ e.1 ≠ s.eng.base.toNat := Slots.mem_clear he
    obtain ⟨hlow, hhigh⟩ := h.slotsWindow e hold
    refine ⟨?_, hhigh.trans_le (windowEnd_mono rfl rfl ?_)⟩
    · show (s.eng.base + 1).toNat ≤ e.1
      omega
    · show s.eng.base.toNat ≤ (s.eng.base + 1).toNat
      omega
  case used => exact h.slotsUsed e (Slots.mem_clear he).1

theorem slideLoop_keepsPhase (n : Nat) (s : State) : KeepsPhase s (slideLoop n s) := by
  induction n generalizing s with
  | zero => exact ⟨rfl, rfl, rfl⟩
  | succ n ih =>
    by_cases hturn : s.eng.base.toNat < s.eng.endSeq.toNat ∧ (slotOf s s.eng.base.toNat).acked = true
    case pos => rw [slideLoop_turn n s hturn]; exact KeepsPhase.trans ⟨rfl, rfl, rfl⟩ (ih _)
    case neg => rw [slideLoop_stop _ s hturn]; exact ⟨rfl, rfl, rfl⟩

theorem slideLoop_windowOk (n : Nat) {s : State} (h : WindowOk s) (hmode : s.cfg.mode = .selective) :
    WindowOk (slideLoop n s) := by
  induction n generalizing s with
  | zero => exact h
  | succ n ih =>
    by_cases hturn : s.eng.base.toNat < s.eng.endSeq.toNat ∧ (slotOf s s.eng.base.toNat).acked = true
    case pos => rw [slideLoop_turn n s hturn]; exact ih (h.slide hmode hturn.1) hmode
    case neg => rw [slideLoop_stop _ s hturn]; exact h

/-- The slide has enough turns to end at the END number or at a packet not acknowledged (R253). -/
theorem slideLoop_ends (n : Nat) {s : State} (hfuel : s.eng.endSeq.toNat - s.eng.base.toNat ≤ n) :
    let t := slideLoop n s
    t.eng.base.toNat < t.eng.endSeq.toNat → (slotOf t t.eng.base.toNat).acked = false := by
  induction n generalizing s with
  | zero => intro t hlt; exact absurd hlt (by show ¬ s.eng.base.toNat < s.eng.endSeq.toNat; omega)
  | succ n ih =>
    by_cases hturn : s.eng.base.toNat < s.eng.endSeq.toNat ∧ (slotOf s s.eng.base.toNat).acked = true
    case pos =>
      rw [slideLoop_turn n s hturn]
      refine ih ?_
      show s.eng.endSeq.toNat - (s.eng.base + 1).toNat ≤ n
      have hbase := toNat_add_one_of_lt hturn.1
      omega
    case neg =>
      rw [slideLoop_stop _ s hturn]
      intro t hlt
      exact Bool.eq_false_of_not_eq_true fun hacked => hturn ⟨hlt, hacked⟩

theorem sendSlot_frame (q : Nat) (s : State) :
    KeepsPhase s (sendSlot q s) ∧ (sendSlot q s).eng.base = s.eng.base := by
  rw [(sendSlot_spec q s).2]
  exact ⟨⟨rfl, rfl, rfl⟩, rfl⟩

theorem sendSlot_acked (q p : Nat) (s : State) : (slotOf (sendSlot q s) p).acked = (slotOf s p).acked := by
  rw [(sendSlot_spec q s).1]
  split <;> rfl

theorem sendLoop_frame (n q : Nat) (s : State) :
    KeepsPhase s (sendLoop n q s) ∧ (sendLoop n q s).eng.base = s.eng.base := by
  induction n generalizing q s with
  | zero => exact ⟨⟨rfl, rfl, rfl⟩, rfl⟩
  | succ n ih =>
    obtain ⟨hphase, hbase⟩ := sendSlot_frame q s
    obtain ⟨hphase', hbase'⟩ := ih (q + 1) (sendSlot q s)
    exact ⟨hphase.trans hphase', hbase'.trans hbase⟩

/-- Sending acknowledges nothing. -/
theorem sendLoop_acked (n q p : Nat) (s : State) :
    (slotOf (sendLoop n q s) p).acked = (slotOf s p).acked := by
  induction n generalizing q s with
  | zero => rfl
  | succ n ih => exact (ih (q + 1) (sendSlot q s)).trans (sendSlot_acked q p s)

theorem sendSlot_windowOk {s : State} (h : WindowOk s) (hmode : s.cfg.mode = .selective) {q : Nat}
    (hlow : s.eng.base.toNat ≤ q) (hhigh : q < windowEnd s) : WindowOk (sendSlot q s) := by
  unfold sendSlot
  split
  case isTrue =>
    have hemit : WindowOk (emit (dataF s q) s) := h.congr rfl rfl rfl rfl rfl
    exact hemit.setSlot hmode hlow hhigh _
  case isFalse => exact h

theorem sendLoop_windowOk (n q : Nat) {s : State} (h : WindowOk s) (hmode : s.cfg.mode = .selective)
    (hlow : s.eng.base.toNat ≤ q) (hhigh : q + n ≤ windowEnd s) : WindowOk (sendLoop n q s) := by
  induction n generalizing q s with
  | zero => exact h
  | succ n ih =>
    obtain ⟨⟨hcfg, _, hend⟩, hbase⟩ := sendSlot_frame q s
    have hwindow : windowEnd (sendSlot q s) = windowEnd s := by simp only [windowEnd, hcfg, hend, hbase]
    exact ih (q + 1) (sendSlot_windowOk h hmode hlow (by omega)) (by rw [hcfg]; exact hmode)
      (by rw [hbase]; omega) (by rw [hwindow]; omega)

/-- The send pass of a sender short of its END number, and the next poll's start (R255). -/
theorem sendPass_senderRuns {s : State} (h : WindowOk s) (hmode : s.cfg.mode = .selective)
    (hhs : s.eng.hs = .established) (hlt : s.eng.base.toNat < s.eng.endSeq.toNat)
    (hunacked : (slotOf s s.eng.base.toNat).acked = false) (p : Word) :
    SenderRuns { sendPass s with eng := { (sendPass s).eng with pollStart := p } } := by
  have hwindow : WindowOk (sendPass s) :=
    sendLoop_windowOk _ _ h hmode le_rfl (by have := h.base_le_windowEnd; omega)
  obtain ⟨⟨hcfg, hhs', hend⟩, hbase⟩ := sendLoop_frame (windowEnd s - s.eng.base.toNat) s.eng.base.toNat s
  have hest : (sendPass s).eng.hs = .established := hhs'.trans hhs
  have hacked : (slotOf (sendPass s) (sendPass s).eng.base.toNat).acked = false := by
    rw [sendPass, sendLoop_acked, hbase]
    exact hunacked
  have hok : SenderOk (sendPass s) := hwindow.senderOk_of_selective (by rw [sendPass, hcfg]; exact hmode) hest
    (by rw [sendPass, hbase, hend]; exact hlt) hacked
  exact ⟨.inr (.inl hest), hok.congr rfl rfl⟩

theorem selectiveContinue_senderRuns {s : State} (h : WindowOk s) (hmode : s.cfg.mode = .selective)
    (hhs : s.eng.hs = .established)
    (hunacked : s.eng.base.toNat < s.eng.endSeq.toNat → (slotOf s s.eng.base.toNat).acked = false) :
    SenderRuns (selectiveContinue s) := by
  unfold selectiveContinue
  split
  case isTrue hend => exact closeEntry_senderRuns h hend
  case isFalse hne =>
    have hlt : s.eng.base.toNat < s.eng.endSeq.toNat :=
      lt_of_le_of_ne h.baseHigh fun e => hne (BitVec.eq_of_toNat_eq e)
    exact sendPass_senderRuns h hmode hhs hlt (hunacked hlt) _

theorem pollFrame_senderRuns {s : State} (h : SenderOk s) (hmode : s.cfg.mode = .selective)
    (hhs : s.eng.hs = .established) (r : Option Parsed) : SenderRuns (pollFrame r s) := by
  have hmark := selectiveMark_keepsPhase r s
  have hslide : KeepsPhase s (selectiveSlide (selectiveMark r s)) := hmark.trans (slideLoop_keepsPhase _ _)
  refine selectiveContinue_senderRuns ?_ (by rw [hslide.1]; exact hmode) (hslide.2.1.trans hhs)
    (slideLoop_ends _ le_rfl)
  exact slideLoop_windowOk _ (selectiveMark_windowOk h.windowOk hmode r) (by rw [hmark.1]; exact hmode)

/-- The slide of a poll timeout has nothing to pass: the base was not acknowledged (R58 item 3). -/
theorem pollTimeout_senderRuns {s : State} (h : SenderRuns s) (hmode : s.cfg.mode = .selective)
    (hhs : s.eng.hs = .established) : SenderRuns (pollTimeout s) := by
  have hlt := h.2.established hhs
  have hunacked := h.2.baseUnacked hlt
  have hslide : selectiveSlide s = s := slideLoop_stop _ s fun hturn => by simp [hunacked] at hturn
  unfold pollTimeout
  split
  case isTrue =>
    rw [hslide]
    exact sendPass_senderRuns h.2.windowOk hmode hhs hlt hunacked _
  case isFalse => exact h

/-! ## The sender's two events -/

theorem senderStartAck_senderRuns {s : State} (h : SenderRuns s) (hhs : s.eng.hs = .establishing) (a : Word) :
    SenderRuns (senderStartAck a s) := by
  obtain ⟨hbase, hnil⟩ := h.2.opening hhs
  have hwindow : WindowOk { s with eng := { s.eng with hs := .established } } :=
    h.2.windowOk.congr rfl rfl rfl rfl rfl
  rcases senderStartAck_cases a s with e | ⟨hmode, e⟩ | ⟨hmode, e⟩ <;> rw [e]
  · exact h
  · exact cumulativeStart_senderRuns hwindow hmode rfl hbase
  · refine selectiveContinue_senderRuns (hwindow.congr rfl rfl rfl hbase.symm rfl) hmode rfl fun _ => ?_
    exact congrArg Slot.acked (slotOf_of_slots_nil hnil _)

theorem senderTimer_senderRuns {s : State} (h : SenderRuns s) : SenderRuns (senderTimer s) := by
  unfold senderTimer
  split
  case h_1 => exact startRetry_senderRuns h
  case h_2 hhs =>
    split
    case h_1 => exact cumulativeTimeout_senderRuns h
    case h_2 hmode => exact pollTimeout_senderRuns h hmode hhs
  case h_3 => exact endRetry_senderRuns h
  case h_4 => exact h
  case h_5 => exact h

theorem rxSender_senderRuns {s : State} (h : SenderRuns s) (r : Option Parsed) :
    SenderRuns (rxSender r s) ∨ rxSender r s = closeConnection s := by
  unfold rxSender
  split
  case isTrue hpoll => exact .inl (pollFrame_senderRuns h.2 hpoll.2 hpoll.1 r)
  case isFalse hpoll =>
    split
    case h_2 => exact .inl h
    case h_1 a _ =>
      unfold senderAck
      split
      case h_1 hhs => exact .inl (senderStartAck_senderRuns h hhs a)
      case h_2 hhs =>
        have hmode : s.cfg.mode = .cumulative := by
          cases hm : s.cfg.mode with
          | cumulative => rfl
          | selective => exact absurd ⟨hhs, hm⟩ hpoll
        exact .inl (cumulativeAck_senderRuns h hmode hhs a)
      case h_3 =>
        unfold endAck
        split
        case isTrue => exact .inr rfl
        case isFalse => exact .inl h
      case h_4 => exact .inl h
      case h_5 => exact .inl h

end Sys2Proof.Machine
end

section
/-! The receiver's output and its reorder buffer (10_state R58 items 4 and 5): every operation of the receiver
keeps them. -/

namespace Sys2Proof.Machine

/-! ## OUTBUF and OUT_LEN stay in bounds -/

/-- The step keeps the buffers in bounds, and OUT_LEN within OUTBUF. -/
def KeepsOutput (s t : State) : Prop :=
  (MemoryOk s → MemoryOk t) ∧
  (s.eng.outLen.toNat ≤ s.build.outCap → t.eng.outLen.toNat ≤ t.build.outCap)

theorem KeepsOutput.trans {s t u : State} (h : KeepsOutput s t) (h' : KeepsOutput t u) : KeepsOutput s u :=
  ⟨fun hm => h'.1 (h.1 hm), fun ho => h'.2 (h.2 ho)⟩

theorem KeepsOutput.of_sendsOnly {s t : State} (h : SendsOnly s t) (hlen : t.eng.outLen = s.eng.outLen) :
    KeepsOutput s t := by
  constructor
  · intro hm
    rw [h]
    exact hm.congr rfl rfl rfl rfl
  · intro ho
    rw [hlen, h]
    exact ho

/-- A count past 32 bits is a free value (log 9), and any 32-bit value is below it. -/
theorem addWord_toNat_le (a : Word) (n : Nat) : (addWord a n).toNat ≤ a.toNat + n := by
  rcases Nat.lt_or_ge (a.toNat + n) (2 ^ 32) with hlt | hge
  · exact (addWord_toNat hlt).le
  · exact (addWord a n).isLt.le.trans hge

/-- A delivery that fits appends to OUTBUF (45_receiver_reorder R281). -/
theorem keepsOutput_of_append {s t : State} {p : Bytes}
    (hfits : s.eng.outLen.toNat + p.length ≤ s.build.outCap)
    (ht : t = { s with outbuf := s.outbuf.writeBytes s.eng.outLen.toNat p, eng := t.eng })
    (hlen : t.eng.outLen = addWord s.eng.outLen p.length) : KeepsOutput s t := by
  constructor
  · intro hm
    rw [ht]
    exact (hm.writeOutbuf hfits).congr rfl rfl rfl rfl
  · intro _
    rw [hlen, ht]
    exact (addWord_toNat_le _ _).trans hfits

theorem deliver_ok_keepsOutput {q : Word} {p : Bytes} {s t : State} (h : deliver q p s = .ok t) :
    KeepsOutput s t := by
  obtain ⟨hfits, rfl⟩ := deliver_eq_ok h
  exact keepsOutput_of_append hfits rfl rfl

theorem engineFault_keepsOutput (c : ErrCode) (info : Word) (s : State) :
    KeepsOutput s (engineFault c info s) :=
  ⟨fun hm => hm.congr rfl rfl rfl rfl, fun ho => ho⟩

theorem drainLoop_keepsOutput (n : Nat) (s : State) : KeepsOutput s (Outcome.state (drainLoop n s)) := by
  induction n generalizing s with
  | zero => exact ⟨fun hm => hm, fun ho => ho⟩
  | succ n ih =>
    rcases drainLoop_succ_cases n s with e | ⟨p, _, hfits, e⟩ | e <;> rw [e]
    · exact ⟨fun hm => hm, fun ho => ho⟩
    · exact (keepsOutput_of_append (t := drained p s) hfits rfl rfl).trans (ih _)
    · exact engineFault_keepsOutput _ _ s

theorem ackData_sendsOnly (c : DataCase) (q : Word) (s : State) : SendsOnly s (ackData c q s) := by
  unfold ackData; split <;> rfl

theorem ackData_keepsOutput (c : DataCase) (q : Word) (s : State) : KeepsOutput s (ackData c q s) :=
  .of_sendsOnly (ackData_sendsOnly c q s) (by rw [ackData_eng])

theorem bufferAhead_keepsOutput (q : Word) (p : Bytes) (s : State) : KeepsOutput s (bufferAhead q p s) := by
  unfold bufferAhead
  split <;> exact .of_sendsOnly rfl rfl

theorem receiveData_keepsOutput (q : Word) (p : Bytes) (s : State) : KeepsOutput s (receiveData q p s) := by
  cases hc : dataCase s q with
  | inOrder =>
    rcases receiveData_inOrder_cases (p := p) hc with e | ⟨t, hd, hl⟩
    · rw [e]; exact engineFault_keepsOutput _ q s
    · have hdrain := (deliver_ok_keepsOutput hd).trans (drainLoop_keepsOutput t.eng.rbuf.length t)
      rcases hl with hl | ⟨u, hl, e⟩ <;> rw [drain] at hl <;> rw [hl] at hdrain
      · exact hdrain
      · rw [e]; exact hdrain.trans (ackData_keepsOutput _ q u)
  | ahead =>
    simp only [receiveData, hc]
    exact (bufferAhead_keepsOutput q p s).trans (ackData_keepsOutput _ q _)
  | behind =>
    simp only [receiveData, hc]
    exact ackData_keepsOutput _ q s
  | outOfWindow =>
    simp only [receiveData, hc]
    exact ackData_keepsOutput _ q s

/-! ## The reorder buffer inside its window -/

theorem ReceiverOk.congr {s t : State} (h : ReceiverOk s) (hcfg : t.cfg = s.cfg)
    (hexp : t.eng.expected = s.eng.expected) (hrbuf : t.eng.rbuf = s.eng.rbuf) : ReceiverOk t := by
  constructor <;> simp only [hcfg, hexp, hrbuf]
  exacts [h.rbufSorted, h.rbufWindow, h.rbufNumber, h.rbufSize]

/-- `ReceiverOk` as it stands between two turns of the drain: the expected packet may be buffered still. -/
structure DrainOk (s : State) : Prop where
  rbufSorted : Store.Sorted s.eng.rbuf
  rbufWindow : ∀ e ∈ s.eng.rbuf,
    s.eng.expected.toNat ≤ e.1 ∧ e.1 < s.eng.expected.toNat + s.cfg.window.toNat
  rbufNumber : ∀ e ∈ s.eng.rbuf, e.1 < 2 ^ 32
  rbufSize   : ∀ e ∈ s.eng.rbuf, e.2.length ≤ maxRxPayload

/-- A number ahead of the expected one stays in the window when the expected number moves on; where that
wraps, no number is ahead of it. -/
theorem window_advance {e : Word} {k w : Nat} (hlow : e.toNat < k) (hhigh : k < e.toNat + w)
    (hk : k < 2 ^ 32) : (e + 1).toNat ≤ k ∧ k < (e + 1).toNat + w := by
  have hnext : (e + 1).toNat = e.toNat + 1 := by
    rw [BitVec.toNat_add]
    exact Nat.mod_eq_of_lt (by simp; omega)
  omega

theorem ReceiverOk.drainOk_of_advance {s t : State} (h : ReceiverOk s) (hcfg : t.cfg = s.cfg)
    (hexp : t.eng.expected = s.eng.expected + 1) (hrbuf : t.eng.rbuf = s.eng.rbuf) : DrainOk t := by
  constructor <;> simp only [hcfg, hexp, hrbuf]
  case rbufSorted => exact h.rbufSorted
  case rbufWindow =>
    intro e he
    obtain ⟨hlow, hhigh⟩ := h.rbufWindow e he
    exact window_advance hlow hhigh (h.rbufNumber e he)
  case rbufNumber => exact h.rbufNumber
  case rbufSize => exact h.rbufSize

theorem deliver_ok_drainOk {q : Word} {p : Bytes} {s t : State} (h : ReceiverOk s)
    (hd : deliver q p s = .ok t) : DrainOk t := by
  obtain ⟨_, ht⟩ := deliver_eq_ok hd
  exact h.drainOk_of_advance (by rw [ht]) (by rw [ht]) (by rw [ht])

/-- With the expected packet removed, the rest of the buffer is ahead of it. -/
theorem DrainOk.removeBuffered {s : State} (h : DrainOk s) :
    ReceiverOk (removeBuffered s.eng.expected.toNat s) where
  rbufSorted := sorted_erase _ h.rbufSorted
  rbufWindow e he := by
    obtain ⟨hold, hne⟩ : e ∈ s.eng.rbuf ∧ e.1 ≠ s.eng.expected.toNat := mem_erase.1 he
    obtain ⟨hlow, hhigh⟩ := h.rbufWindow e hold
    exact ⟨lt_of_le_of_ne hlow hne.symm, hhigh⟩
  rbufNumber e he := h.rbufNumber e (mem_erase.1 he).1
  rbufSize e he := h.rbufSize e (mem_erase.1 he).1

theorem DrainOk.drained {s : State} (h : DrainOk s) (p : Bytes) : DrainOk (drained p s) :=
  h.removeBuffered.drainOk_of_advance rfl rfl rfl

theorem DrainOk.receiverOk {s : State} (h : DrainOk s)
    (hnone : Store.find? s.eng.rbuf s.eng.expected.toNat = none) : ReceiverOk s where
  rbufSorted := h.rbufSorted
  rbufWindow e he := by
    obtain ⟨hlow, hhigh⟩ := h.rbufWindow e he
    have hne : s.eng.expected.toNat ≠ e.1 := fun heq => by
      have hfind : Store.find? s.eng.rbuf s.eng.expected.toNat = some e.2 :=
        (find?_eq_some_iff h.rbufSorted).2 (heq ▸ he)
      rw [hnone] at hfind
      cases hfind
    exact ⟨lt_of_le_of_ne hlow hne, hhigh⟩
  rbufNumber := h.rbufNumber
  rbufSize := h.rbufSize

theorem drainLoop_ok_drainOk {n : Nat} {s t : State} (h : DrainOk s) (hl : drainLoop n s = .ok t) :
    DrainOk t := by
  induction n generalizing s with
  | zero => cases hl; exact h
  | succ n ih =>
    rcases drainLoop_succ_cases n s with e | ⟨p, _, _, e⟩ | e <;> rw [e] at hl
    · cases hl; exact h
    · exact ih (h.drained p) hl
    · cases hl

theorem drain_ok_receiverOk {s t : State} (h : DrainOk s) (hl : drain s = .ok t) : ReceiverOk t :=
  (drainLoop_ok_drainOk h hl).receiverOk (drainLoop_ends _ le_rfl hl)

theorem dataCase_ahead {s : State} {q : Word} (h : dataCase s q = .ahead) :
    s.eng.expected.toNat < q.toNat ∧ q.toNat < s.eng.expected.toNat + s.cfg.window.toNat := by
  unfold dataCase at h
  split_ifs at h with hne hbehind hin
  have hnat : q.toNat ≠ s.eng.expected.toNat := fun e => hne (BitVec.eq_of_toNat_eq e)
  omega

theorem bufferAhead_receiverOk {q : Word} {p : Bytes} {s : State} (h : ReceiverOk s)
    (hcase : dataCase s q = .ahead) (hp : p.length ≤ maxRxPayload) : ReceiverOk (bufferAhead q p s) := by
  unfold bufferAhead
  split
  case h_1 => exact h
  case h_2 =>
    constructor
    case rbufSorted => exact sorted_insert q.toNat p h.rbufSorted
    all_goals
      intro e he
      rcases mem_insert he with rfl | hold
    · exact dataCase_ahead hcase
    · exact h.rbufWindow e hold
    · exact q.isLt
    · exact h.rbufNumber e hold
    · exact hp
    · exact h.rbufSize e hold

theorem ackData_receiverOk {s : State} (h : ReceiverOk s) (c : DataCase) (q : Word) :
    ReceiverOk (ackData c q s) :=
  h.congr (by rw [ackData_sendsOnly c q s]) (by rw [ackData_eng]) (by rw [ackData_eng])

/-- A DATA frame that does not end the connection leaves the buffer inside the window (R58 item 4). -/
theorem receiveData_receiverOk {q : Word} {p : Bytes} {s : State} (h : ReceiverOk s)
    (hp : p.length ≤ maxRxPayload) (hrun : (receiveData q p s).eng.running = true) :
    ReceiverOk (receiveData q p s) := by
  cases hc : dataCase s q with
  | inOrder =>
    rcases receiveData_inOrder_cases (p := p) hc with e | ⟨t, hd, hl⟩
    · rw [e] at hrun; cases hrun
    · rcases hl with hl | ⟨u, hl, e⟩
      · rw [(drainLoop_error_overflows hl).flags.1] at hrun; cases hrun
      · rw [e]
        exact ackData_receiverOk (drain_ok_receiverOk (deliver_ok_drainOk h hd) hl) _ q
  | ahead =>
    simp only [receiveData, hc]
    exact ackData_receiverOk (bufferAhead_receiverOk h hc hp) _ q
  | behind =>
    simp only [receiveData, hc]
    exact ackData_receiverOk h _ q
  | outOfWindow =>
    simp only [receiveData, hc]
    exact ackData_receiverOk h _ q

end Sys2Proof.Machine
end

section
/-! The invariant of one block (10_state R58): every step keeps it. -/

namespace Sys2Proof.Machine

/-! ## The payload of a received frame -/

/-- The payload `decode` extracts is no longer than the length field says and than the frame has room for. -/
theorem decodeFrame_payload_le {f : Bytes} {h : Header} {p : Bytes} (hd : decodeFrame f = some (h, p)) :
    p.length ≤ h.length.toNat ∧ p.length + hdrBytes ≤ f.length := by
  unfold decodeFrame at hd
  split at hd
  case isTrue => cases hd
  case isFalse hlong =>
    cases hd
    simp only [List.length_take, List.length_drop]
    omega

theorem decodeOpcode_wellFormed (op : BitVec 8) : WellFormed (decodeOpcode op) = true := by
  unfold decodeOpcode
  split_ifs
  case neg => simp_all [WellFormed]
  all_goals rfl

theorem decodeRxType_wellFormed {h : Header} {p : Bytes} (hlen : p.length ≤ h.length.toNat)
    (hbuf : p.length ≤ maxRxPayload) : WellFormed (decodeRxType h p) = true := by
  unfold decodeRxType
  dsimp only
  split_ifs with hstart hend hdata hack
  case neg =>
    have htype : 4 ≤ h.type.toNat := by
      simp only [← BitVec.toNat_inj] at hstart hend hdata hack
      simp at hstart hend hdata hack
      omega
    exact decide_eq_true ⟨htype, hlen, hbuf⟩
  all_goals exact decide_eq_true ⟨hlen, hbuf⟩

theorem decodeRx_wellFormed (raw : Bytes) : WellFormed (decodeRx raw) = true := by
  unfold decodeRx
  split
  case h_1 hnone =>
    have hshort : raw.length < hdrBytes := by
      unfold decodeFrame at hnone
      split at hnone
      case isTrue h => simp only [List.length_take, hdrBytes, rxbufBytes] at h ⊢; omega
      case isFalse => cases hnone
    exact decide_eq_true hshort
  case h_2 h p hsome =>
    obtain ⟨hlen, hroom⟩ := decodeFrame_payload_le hsome
    refine decodeRxType_wellFormed hlen ?_
    simp only [List.length_take, hdrBytes, rxbufBytes, maxRxPayload] at hroom ⊢
    omega

theorem decodeInput_wellFormed (e : Input) : WellFormed (decodeInput e) = true := by
  cases e with
  | reg write index data =>
    cases write
    case false => rfl
    case true =>
      show WellFormed (if index = cmdIndex then decodeCommand data else .regWr index data) = true
      split
      case isTrue => exact decodeOpcode_wellFormed _
      case isFalse hne => exact decide_eq_true hne
  | buf write code offset data => cases write <;> rfl
  | rx raw => exact decodeRx_wellFormed raw
  | tick => rfl
  | reset => rfl

theorem rxOutcome_payload_le {i : Instr} {f : Parsed} (hwf : WellFormed i = true)
    (h : rxOutcome i = some (some f)) : f.payload.length ≤ maxRxPayload := by
  unfold rxOutcome at h
  split at h
  case h_1 g | h_2 g | h_3 g | h_4 g =>
    cases h
    have hg : g.WellFormed := of_decide_eq_true hwf
    exact hg.2
  case h_5 type g =>
    cases h
    have hg : 4 ≤ type.toNat ∧ g.WellFormed := of_decide_eq_true hwf
    exact hg.2.2
  case h_6 => cases h
  case h_7 => cases h

/-! ## The flags and the handshake state -/

/-- While a connection runs, the handshake state is one of its role's, and CLOSED is none of them. -/
theorem flagsOk_of_running {t : State} (hdone : t.eng.done = false) (hfault : t.eng.fault = false)
    (hsender : t.cfg.role = .sender →
      t.eng.hs = .establishing ∨ t.eng.hs = .established ∨ t.eng.hs = .closing)
    (hreceiver : t.cfg.role = .receiver → t.eng.hs = .idle ∨ t.eng.hs = .established)
    (herr : t.eng.err = .none → t.eng.errInfo = 0) : FlagsOk t where
  doneIffClosed := by
    have hopen : t.eng.hs ≠ .closed := by
      intro hclosed
      cases hrole : t.cfg.role with
      | sender => simpa [hclosed] using hsender hrole
      | receiver => simpa [hclosed] using hreceiver hrole
    simp [hdone, hopen]
  runningClear _ := ⟨hdone, hfault⟩
  senderStates _ := hsender
  receiverStates _ := hreceiver
  faultKeepsHs h := by rw [hfault] at h; cases h
  noErrNoInfo := herr

theorem FlagsOk.closes {s t : State} (h : FlagsOk s) (hrun : s.eng.running = true) (hc : Closes s t) :
    FlagsOk t := by
  obtain ⟨hrunning, hdone, hfault, hhs⟩ := hc.flags
  obtain ⟨_, hnofault⟩ := h.runningClear hrun
  have herr : t.eng.err = s.eng.err ∧ t.eng.errInfo = s.eng.errInfo := by rw [hc]; exact ⟨rfl, rfl⟩
  exact {
    doneIffClosed := by simp [hdone, hhs]
    runningClear := by simp [hrunning]
    senderStates := by simp [hrunning]
    receiverStates := by simp [hrunning]
    faultKeepsHs := by simp [hfault, hnofault]
    noErrNoInfo := by rw [herr.1, herr.2]; exact h.noErrNoInfo }

theorem FlagsOk.overflows {s t : State} (h : FlagsOk s) (hrun : s.eng.running = true)
    (hest : s.eng.hs = .established) (ho : Overflows s t) : FlagsOk t := by
  obtain ⟨hrunning, hdone, hfault, herr⟩ := ho.flags
  obtain ⟨hnotdone, _⟩ := h.runningClear hrun
  have hhs : t.eng.hs = .established := by rw [ho]; exact hest
  exact {
    doneIffClosed := by simp [hdone, hnotdone, hhs]
    runningClear := by simp [hrunning]
    senderStates := by simp [hrunning]
    receiverStates := by simp [hrunning]
    faultKeepsHs := fun _ => hhs
    noErrNoInfo := by simp [herr] }

/-! ## Steps that leave the connection alone -/

theorem ConfigLegal.congr {s t : State} (h : ConfigLegal s) (hcfg : t.cfg = s.cfg)
    (hbuild : t.build = s.build) : ConfigLegal t := by
  constructor <;> simp only [hcfg, hbuild]
  exacts [h.window, h.chunk, h.rto, h.poll, h.inLen]

theorem LeavesConnection.inv {s t : State} (h : LeavesConnection s t) (hi : Inv s) : Inv t := by
  obtain ⟨hrunning, hdone, hfault⟩ := h.keepsFlags
  have hhs : t.eng.hs = s.eng.hs := by rw [h.engine]
  have hlock (hrun : t.eng.running = true) : s.eng.running = true ∧ t.cfg = s.cfg :=
    ⟨hrunning ▸ hrun, h.locked (hrunning ▸ hrun)⟩
  refine ⟨h.build ▸ hi.build, h.memory hi.memory, ?flags, ?outLen, ?config, ?sender, ?receiver⟩
  case flags =>
    constructor
    case doneIffClosed => rw [hdone, hhs]; exact hi.flags.doneIffClosed
    case runningClear => rw [hrunning, hdone, hfault]; exact hi.flags.runningClear
    case senderStates =>
      intro hrun
      obtain ⟨hrun', hcfg⟩ := hlock hrun
      rw [hcfg, hhs]
      exact hi.flags.senderStates hrun'
    case receiverStates =>
      intro hrun
      obtain ⟨hrun', hcfg⟩ := hlock hrun
      rw [hcfg, hhs]
      exact hi.flags.receiverStates hrun'
    case faultKeepsHs => rw [hfault, hhs]; exact hi.flags.faultKeepsHs
    case noErrNoInfo => exact h.errInfo hi.flags.noErrNoInfo
  case outLen => rw [h.engine, h.build]; exact hi.outLen
  case config =>
    intro hrun
    obtain ⟨hrun', hcfg⟩ := hlock hrun
    exact (hi.config hrun').congr hcfg h.build
  case sender =>
    intro hrun hrole
    obtain ⟨hrun', hcfg⟩ := hlock hrun
    exact (hi.sender hrun' (hcfg ▸ hrole)).congr hcfg h.engine
  case receiver =>
    intro hrun hrole
    obtain ⟨hrun', hcfg⟩ := hlock hrun
    exact (hi.receiver hrun' (hcfg ▸ hrole)).congr hcfg (by rw [h.engine]) (by rw [h.engine])

/-! ## RUN -/

/-- The configuration check of RUN passes legal configurations only (46_host_control R312). -/
theorem configLegal_of_configError {s : State} (h : configError s = none) : ConfigLegal s := by
  unfold configError at h
  split at h
  case isTrue => cases h
  case isFalse hwindow =>
    split at h
    case h_1 hrole =>
      exact ⟨by omega, by simp [hrole], by simp [hrole], by simp [hrole], by simp [hrole]⟩
    case h_2 hrole =>
      split_ifs at h with hchunk hrto hpoll hinLen
      exact ⟨by omega, fun _ => by omega, fun _ => by omega,
        fun _ hmode => Nat.le_of_not_lt fun hlt => hpoll ⟨hmode, hlt⟩, fun _ => by omega⟩

/-- The END number fits its register: it is at most one above IN_LEN (43_sender_cumulative R220). -/
theorem packetCount_lt {s : State} (hb : s.build.Legal) (hc : ConfigLegal s) (hrole : s.cfg.role = .sender) :
    (origin s.cfg.mode).toNat + packetCount s.cfg < 2 ^ 32 := by
  have hcount := packetCount_le s.cfg (hc.chunk hrole).1
  have hinLen := hc.inLen hrole
  have hcap := hb.2
  have horigin : (origin s.cfg.mode).toNat ≤ 1 := by cases s.cfg.mode <;> decide
  omega

/-- The sender's engine after RUN (46_host_control R312). -/
theorem roleStart_sender_senderOk {s : State} (hb : s.build.Legal) (hc : ConfigLegal s)
    (hrole : s.cfg.role = .sender) : SenderOk (roleStart (initConnection s)) := by
  have hfits := packetCount_lt hb hc hrole
  have hcount : (BitVec.ofNat 32 (packetCount s.cfg)).toNat = packetCount s.cfg :=
    Nat.mod_eq_of_lt (by omega)
  have hend : (origin s.cfg.mode + BitVec.ofNat 32 (packetCount s.cfg)).toNat =
      (origin s.cfg.mode).toNat + packetCount s.cfg := by
    rw [BitVec.toNat_add, hcount]
    exact Nat.mod_eq_of_lt hfits
  have hstart : roleStart (initConnection s) = senderOpen { initConnection s with eng :=
      { (initConnection s).eng with
        total := BitVec.ofNat 32 (packetCount s.cfg)
        endSeq := origin s.cfg.mode + BitVec.ofNat 32 (packetCount s.cfg) } } := by
    unfold roleStart
    rw [show (initConnection s).cfg.role = .sender from hrole]
    rfl
  rw [hstart]
  exact {
    total := hcount
    endSeq := hend
    baseLow := le_rfl
    baseHigh := hend ▸ Nat.le_add_right _ _
    opening := fun _ => ⟨rfl, rfl⟩
    established := fun h => by cases h
    closing := fun h => by cases h
    cumulative := fun _ h => by cases h
    cumulativeSlots := fun _ => rfl
    slotsSorted := .nil
    slotsWindow := fun _ h => by cases h
    slotsUsed := fun _ h => by cases h
    baseUnacked := fun _ => rfl }

theorem receiverOk_of_rbuf_nil {t : State} (h : t.eng.rbuf = []) : ReceiverOk t := by
  constructor <;> simp [h, Store.Sorted]

/-- What RUN's start leaves, whatever the role (46_host_control R312). -/
theorem roleStart_frame (s : State) :
    let t := roleStart (initConnection s)
    t = { s with eng := t.eng, tx := t.tx } ∧ t.eng.err = s.eng.err ∧ t.eng.errInfo = s.eng.errInfo ∧
      t.eng.outLen = 0 ∧ t.eng.rbuf = [] ∧
      (s.cfg.role = .sender → t.eng.hs = .establishing) ∧ (s.cfg.role = .receiver → t.eng.hs = .idle) := by
  intro t
  have hcfg : (initConnection s).cfg.role = s.cfg.role := rfl
  cases hrole : s.cfg.role <;> rw [hrole] at hcfg <;> simp only [t, roleStart, hcfg] <;>
    exact ⟨rfl, rfl, rfl, rfl, rfl, by simp [receiverOpen], by simp [receiverOpen]⟩

theorem roleStart_inv {s : State} (hi : Inv s) (hfault : s.eng.fault = false) (hcfg : configError s = none) :
    Inv (roleStart (initConnection s)) := by
  have hlegal := configLegal_of_configError hcfg
  obtain ⟨_, hdone, hfault'⟩ := roleStart_initConnection_flags s
  obtain ⟨hframe, herr, hinfo, hlen, hrbuf, hsender, hreceiver⟩ := roleStart_frame s
  have hrole : (roleStart (initConnection s)).cfg = s.cfg := by rw [hframe]
  have hbuild : (roleStart (initConnection s)).build = s.build := by rw [hframe]
  refine ⟨hbuild ▸ hi.build, ?memory, ?flags, ?outLen, fun _ => hlegal.congr hrole hbuild, ?sender, ?receiver⟩
  case memory => rw [hframe]; exact hi.memory.congr rfl rfl rfl rfl
  case flags =>
    exact flagsOk_of_running hdone (hfault'.trans hfault) (fun h => .inl (hsender (hrole ▸ h)))
      (fun h => .inl (hreceiver (hrole ▸ h))) (by rw [herr, hinfo]; exact hi.flags.noErrNoInfo)
  case outLen => rw [hlen]; exact Nat.zero_le _
  case sender => exact fun _ h => roleStart_sender_senderOk hi.build hlegal (hrole ▸ h)
  case receiver => exact fun _ _ => receiverOk_of_rbuf_nil hrbuf

/-! ## A running connection's own events -/

/-- What a step of a running connection leaves to check, once it is known to receive or send only. -/
theorem Inv.of_receivesOnly {s t : State} (hi : Inv s) (hrun : s.eng.running = true) (hro : ReceivesOnly s t)
    (hout : KeepsOutput s t) (hflags : FlagsOk t)
    (hsender : t.eng.running = true → s.cfg.role = .sender → SenderOk t)
    (hreceiver : t.eng.running = true → s.cfg.role = .receiver → ReceiverOk t) : Inv t := by
  have hcfg : t.cfg = s.cfg := by rw [hro]
  have hbuild : t.build = s.build := by rw [hro]
  exact {
    build := hbuild ▸ hi.build
    memory := hout.1 hi.memory
    flags := hflags
    outLen := hout.2 hi.outLen
    config := fun _ => (hi.config hrun).congr hcfg hbuild
    sender := fun h hrole => hsender h (hcfg ▸ hrole)
    receiver := fun h hrole => hreceiver h (hcfg ▸ hrole) }

theorem Inv.closes {s t : State} (hi : Inv s) (hrun : s.eng.running = true) (hs : SendsOnly s t)
    (hc : Closes s t) : Inv t := by
  have hstop : t.eng.running ≠ true := by simp [hc.flags.1]
  exact hi.of_receivesOnly hrun hs.receives (.of_sendsOnly hs (by rw [hc])) (hi.flags.closes hrun hc)
    (fun h => absurd h hstop) (fun h => absurd h hstop)

theorem Inv.senderRuns {s : State} (hi : Inv s) (hrun : s.eng.running = true) (hrole : s.cfg.role = .sender) :
    SenderRuns s :=
  ⟨hi.flags.senderStates hrun hrole, hi.sender hrun hrole⟩

theorem Inv.of_senderRuns {s t : State} (hi : Inv s) (hrun : s.eng.running = true)
    (hrole : s.cfg.role = .sender) (hs : SendsOnly s t) (hm : MovesWindow s t) (hok : SenderRuns t) : Inv t := by
  obtain ⟨hnotdone, hnofault⟩ := hi.flags.runningClear hrun
  obtain ⟨_, hdone, hfault⟩ := hm.keepsFlags
  have hcfg : t.cfg = s.cfg := by rw [hs]
  have hrole' : t.cfg.role ≠ .receiver := by simp [hcfg, hrole]
  have hflags : FlagsOk t := flagsOk_of_running (hdone.trans hnotdone) (hfault.trans hnofault)
    (fun _ => hok.1) (fun h => absurd h hrole') (by rw [hm]; exact hi.flags.noErrNoInfo)
  exact hi.of_receivesOnly hrun hs.receives (.of_sendsOnly hs (by rw [hm])) hflags (fun _ _ => hok.2)
    (fun _ h => by rw [hrole] at h; cases h)

theorem senderTimer_inv {s : State} (hi : Inv s) (hrun : s.eng.running = true) (hrole : s.cfg.role = .sender) :
    Inv (senderTimer s) :=
  hi.of_senderRuns hrun hrole (senderTimer_sendsOnly s) (senderTimer_movesWindow s)
    (senderTimer_senderRuns (hi.senderRuns hrun hrole))

theorem rxSender_inv {s : State} (hi : Inv s) (hrun : s.eng.running = true) (hrole : s.cfg.role = .sender)
    (r : Option Parsed) : Inv (rxSender r s) := by
  have hclose (h : rxSender r s = closeConnection s) : Inv (rxSender r s) :=
    hi.closes hrun (rxSender_sendsOnly r s) (by rw [h]; rfl)
  rcases rxSender_senderRuns (hi.senderRuns hrun hrole) r with hok | h
  · rcases rxSender_cases r s with hm | ⟨_, h⟩
    · exact hi.of_senderRuns hrun hrole (rxSender_sendsOnly r s) hm hok
    · exact hclose h
  · exact hclose h

theorem Inv.of_receiverRuns {s t : State} (hi : Inv s) (hrun : s.eng.running = true)
    (hrole : s.cfg.role = .receiver) (hro : ReceivesOnly s t) (hout : KeepsOutput s t)
    (hhs : t.eng.hs = .idle ∨ t.eng.hs = .established)
    (heng : t.eng = { s.eng with
      hs := t.eng.hs, expected := t.eng.expected, rbuf := t.eng.rbuf, outLen := t.eng.outLen })
    (hok : t.eng.running = true → ReceiverOk t) : Inv t := by
  obtain ⟨hnotdone, hnofault⟩ := hi.flags.runningClear hrun
  have hcfg : t.cfg = s.cfg := by rw [hro]
  have hrole' : t.cfg.role ≠ .sender := by simp [hcfg, hrole]
  have hflags : FlagsOk t := flagsOk_of_running (by rw [heng]; exact hnotdone) (by rw [heng]; exact hnofault)
    (fun h => absurd h hrole') (fun _ => hhs) (by rw [heng]; exact hi.flags.noErrNoInfo)
  exact hi.of_receivesOnly hrun hro hout hflags (fun _ h => by rw [hrole] at h; cases h) (fun h _ => hok h)

theorem receiveData_inv {s : State} (hi : Inv s) (hrun : s.eng.running = true)
    (hrole : s.cfg.role = .receiver) (hest : s.eng.hs = .established) (q : Word) {p : Bytes}
    (hp : p.length ≤ maxRxPayload) : Inv (receiveData q p s) := by
  have hro := receiveData_receivesOnly q p s
  have hout := receiveData_keepsOutput q p s
  rcases receiveData_cases q p s with hm | hover
  · have hhs : (receiveData q p s).eng.hs = .established := by rw [hm]; exact hest
    exact hi.of_receiverRuns hrun hrole hro hout (.inr hhs) (by rw [hm])
      (receiveData_receiverOk (hi.receiver hrun hrole) hp)
  · have hstop : (receiveData q p s).eng.running ≠ true := by simp [hover.flags.1]
    exact hi.of_receivesOnly hrun hro hout (hi.flags.overflows hrun hest hover) (fun h => absurd h hstop)
      (fun h => absurd h hstop)

theorem rxReceiver_inv {s : State} (hi : Inv s) (hrun : s.eng.running = true)
    (hrole : s.cfg.role = .receiver) {r : Option Parsed}
    (hp : ∀ f, r = some f → f.payload.length ≤ maxRxPayload) : Inv (rxReceiver r s) := by
  have hok := hi.receiver hrun hrole
  rcases rxReceiver_cases r s with ⟨hs, hsame | ⟨_, hlisten⟩ | ⟨_, hclose⟩⟩ | ⟨f, hr, _, hest, hdata⟩
  · have hcfg : (rxReceiver r s).cfg = s.cfg := by rw [hs]
    exact hi.of_receiverRuns hrun hrole hs.receives (.of_sendsOnly hs (by rw [hsame]))
      (by rw [hsame]; exact hi.flags.receiverStates hrun hrole) (by rw [hsame])
      (fun _ => hok.congr hcfg (by rw [hsame]) (by rw [hsame]))
  · have hcfg : (rxReceiver r s).cfg = s.cfg := by rw [hs]
    exact hi.of_receiverRuns hrun hrole hs.receives (.of_sendsOnly hs (by rw [hlisten]))
      (.inr (by rw [hlisten])) (by rw [hlisten])
      (fun _ => hok.congr hcfg (by rw [hlisten]) (by rw [hlisten]))
  · exact hi.closes hrun hs hclose
  · rw [hdata]
    exact receiveData_inv hi hrun hrole hest f.hdr.seq (hp f hr)

theorem rxEvent_inv {s : State} (hi : Inv s) {r : Option Parsed}
    (hp : ∀ f, r = some f → f.payload.length ≤ maxRxPayload) : Inv (rxEvent r s) := by
  cases hrun : s.eng.running with
  | false => rw [rxEvent, if_pos hrun]; exact hi
  | true =>
    cases hrole : s.cfg.role with
    | sender => rw [rxEvent_of_sender hrun hrole]; exact rxSender_inv hi hrun hrole r
    | receiver => rw [rxEvent_of_receiver hrun hrole]; exact rxReceiver_inv hi hrun hrole hp

/-! ## Every step -/

theorem Effect.inv {i : Instr} {s t : State} (hwf : WellFormed i = true) (h : Effect s i t) (hi : Inv s) :
    Inv t := by
  have htick : Inv { s with now := s.now + 1 } := (LeavesConnection.of_ports rfl).inv hi
  cases h with
  | bystander hleaves => exact hleaves.inv hi
  | start hfault _ hcfg => exact roleStart_inv hi hfault hcfg
  | softReset => exact inv_of_engine_reset rfl hi.build (hi.memory.congr rfl rfl rfl rfl)
  | reset => exact inv_of_engine_reset rfl hi.build (memoryOk_of_empty rfl rfl rfl)
  | idleTick => exact htick
  | senderTick hrun hrole => exact senderTimer_inv htick hrun hrole
  | frame hrx =>
    refine rxEvent_inv hi fun f hr => ?_
    subst hr
    exact rxOutcome_payload_le hwf hrx

/-- Settles O54: the queue is no part of the invariant, and the effect of each decoded event keeps it. -/
theorem stepKeepsTheInvariant : Obligations.StepKeepsTheInvariant := by
  intro s t hi hstep
  cases hq : s.inputs with
  | nil =>
    rw [step_of_inputs_nil hq] at hstep
    cases hstep
    exact hi
  | cons e rest =>
    rw [step_of_inputs_cons hq] at hstep
    have hwf := decodeInput_wellFormed e
    have htaken : Inv { s with inputs := rest } := (LeavesConnection.of_ports rfl).inv hi
    exact (effect_of_exec (WellFormed.ne_regWr_cmd hwf) hstep).inv hwf htaken

end Sys2Proof.Machine
end

section
/-! The three byte buffers (20_memory R80, R81, R83): every step keeps them canonical and inside their sizes,
and a host access moves one byte. -/

namespace Sys2Proof.Machine

/-! ## Every step keeps the buffers in bounds -/

/-- A sender only reads INBUF (20_memory R80), so it leaves the buffers as they are. -/
theorem SendsOnly.memoryOk {s t : State} (h : SendsOnly s t) (hm : MemoryOk s) : MemoryOk t := by
  rw [h]
  exact hm.congr rfl rfl rfl rfl

/-- A receiver writes OUTBUF only, and a delivery past its size is the engine fault (20_memory R83). -/
theorem rxReceiver_memoryOk {s : State} (r : Option Parsed) (hm : MemoryOk s) :
    MemoryOk (rxReceiver r s) := by
  rcases rxReceiver_cases r s with ⟨hsends, _⟩ | ⟨f, _, _, _, hdata⟩
  · exact hsends.memoryOk hm
  · rw [hdata]
    exact (receiveData_keepsOutput f.hdr.seq f.payload s).1 hm

theorem rxEvent_memoryOk {s : State} (r : Option Parsed) (hm : MemoryOk s) : MemoryOk (rxEvent r s) := by
  unfold rxEvent
  split
  case isTrue => exact hm
  case isFalse =>
    split
    case h_1 => exact (rxSender_sendsOnly r s).memoryOk hm
    case h_2 => exact rxReceiver_memoryOk r hm

theorem roleStart_memoryOk {s : State} (hm : MemoryOk s) : MemoryOk (roleStart (initConnection s)) := by
  obtain ⟨hframe, _⟩ := roleStart_frame s
  rw [hframe]
  exact hm.congr rfl rfl rfl rfl

theorem Effect.memoryOk {i : Instr} {s t : State} (h : Effect s i t) (hm : MemoryOk s) : MemoryOk t := by
  have htick : MemoryOk { s with now := s.now + 1 } := hm.congr rfl rfl rfl rfl
  cases h with
  | bystander hleaves => exact hleaves.memory hm
  | start => exact roleStart_memoryOk hm
  | softReset => exact hm.congr rfl rfl rfl rfl
  | reset => exact memoryOk_of_empty rfl rfl rfl
  | idleTick => exact htick
  | senderTick => exact (senderTimer_sendsOnly _).memoryOk htick
  | frame => exact rxEvent_memoryOk _ hm

/-- Settles O55: the queue is no buffer, and the effect of each decoded event keeps the buffers in bounds. -/
theorem stepKeepsTheBuffersInBounds : Obligations.StepKeepsTheBuffersInBounds := by
  intro s t hm hstep
  cases hq : s.inputs with
  | nil =>
    rw [step_of_inputs_nil hq] at hstep
    cases hstep
    exact hm
  | cons e rest =>
    rw [step_of_inputs_cons hq] at hstep
    have htaken : MemoryOk { s with inputs := rest } := hm.congr rfl rfl rfl rfl
    exact (effect_of_exec (WellFormed.ne_regWr_cmd (decodeInput_wellFormed e)) hstep).memoryOk htaken

/-! ## One host access -/

/-- The buffer codes: INBUF, OUTBUF, FBUF and the one that names no buffer (30_encoding R118). -/
theorem bufCode_cases (code : BitVec 2) : code = 0 ∨ code = 1 ∨ code = 2 ∨ code = 3 := by
  decide +revert

theorem readBuf_eq (s : State) (code : BitVec 2) (off : Nat) :
    readBuf s code off =
      if code = 0 ∧ off < s.build.inCap then s.inbuf.read off
      else if code = 1 ∧ off < s.build.outCap ∧ off < s.eng.outLen.toNat then s.outbuf.read off
      else if code = 2 ∧ off < fbufBytes then s.fbuf.read off
      else 0 := by
  rcases bufCode_cases code with rfl | rfl | rfl | rfl <;> simp [readBuf]

/-- A write reaches INBUF while no connection runs (10_state R48), or FBUF, and no other buffer. -/
theorem writeBuf_eq (s : State) (code : BitVec 2) (off : Nat) (v : Byte) :
    writeBuf s code off v = { s with
      inbuf := if code = 0 ∧ off < s.build.inCap ∧ s.eng.running = false then s.inbuf.write off v else s.inbuf
      fbuf := if code = 2 ∧ off < fbufBytes then s.fbuf.write off v else s.fbuf } := by
  rcases bufCode_cases code with rfl | rfl | rfl | rfl
  · by_cases hin : off < s.build.inCap ∧ s.eng.running = false <;> simp [writeBuf, hin]
  · rfl
  · by_cases hin : off < fbufBytes <;> simp [writeBuf, hin]
  · rfl

/-- A write that happens on a condition changes the one byte it names. -/
theorem Memory.read_write_if (c : Prop) [Decidable c] (m : Memory) (off a : Nat) (v : Byte) :
    (if c then m.write off v else m).read a = if c ∧ a = off then v else m.read a := by
  by_cases hc : c
  · simp only [hc, if_true, true_and, Memory.read_write]
  · simp only [hc, if_false, false_and]

theorem read_inbuf_writeBuf (s : State) (code : BitVec 2) (off : Nat) (v : Byte) (a : Nat) :
    (writeBuf s code off v).inbuf.read a =
      if code = 0 ∧ a = off ∧ a < s.build.inCap ∧ s.eng.running = false then v else s.inbuf.read a := by
  rw [writeBuf_eq, Memory.read_write_if]
  refine if_congr ⟨?_, ?_⟩ rfl rfl
  · rintro ⟨⟨hcode, hin, hrun⟩, rfl⟩
    exact ⟨hcode, rfl, hin, hrun⟩
  · rintro ⟨hcode, rfl, hin, hrun⟩
    exact ⟨⟨hcode, hin, hrun⟩, rfl⟩

theorem read_fbuf_writeBuf (s : State) (code : BitVec 2) (off : Nat) (v : Byte) (a : Nat) :
    (writeBuf s code off v).fbuf.read a =
      if code = 2 ∧ a = off ∧ a < fbufBytes then v else s.fbuf.read a := by
  rw [writeBuf_eq, Memory.read_write_if]
  refine if_congr ⟨?_, ?_⟩ rfl rfl
  · rintro ⟨⟨hcode, hin⟩, rfl⟩
    exact ⟨hcode, rfl, hin⟩
  · rintro ⟨hcode, rfl, hin⟩
    exact ⟨⟨hcode, hin⟩, rfl⟩

/-- Settles O28, from what one access reads and which byte it writes. -/
theorem bufferAccess : Obligations.BufferAccess := by
  intro s code off v
  refine ⟨?read, writeBuf s code off.toNat v, rfl, ?inbuf, ?fbuf, writeBuf_frame s code off.toNat v⟩
  case read => rw [← readBuf_eq s code off.toNat]; rfl
  case inbuf => exact read_inbuf_writeBuf s code off.toNat v
  case fbuf => exact read_fbuf_writeBuf s code off.toNat v

end Sys2Proof.Machine
end

section
/-! The codec's round trips (41_codec R160 to R163): a header and the payload it announces read back, and so
does a frame that `encode` stamped. -/

namespace Sys2Proof.Machine

/-- A payload no longer than its header's length field is read back whole (41_codec R162). -/
theorem decodeFrame_headerBytes_of_le {h : Header} {p : Bytes} (hp : p.length ≤ h.length.toNat) :
    decodeFrame (headerBytes h ++ p) = some (h, p) := by
  rw [decodeFrame_headerBytes, Nat.min_eq_right hp, List.take_length]

theorem decodeFrame_of_short {f : Bytes} (h : f.length < hdrBytes) : decodeFrame f = none :=
  if_pos h

theorem stampedHeader_length_toNat (t q : Word) {p : Bytes} (hp : p.length ≤ maxPayload) :
    (stampedHeader t q p).length.toNat = p.length :=
  Nat.mod_eq_of_lt (by simp only [maxPayload] at hp; omega)

theorem decodeFrame_encodeFrame (t q : Word) {p : Bytes} (hp : p.length ≤ maxPayload) :
    decodeFrame (encodeFrame t q p) = some (stampedHeader t q p, p) :=
  decodeFrame_headerBytes_of_le (stampedHeader_length_toNat t q hp).ge

/-- The header that `encode` stamps verifies over its payload (41_codec R168). -/
theorem verifyFrame_stampedHeader (t q : Word) (p : Bytes) : verifyFrame (stampedHeader t q p) p = true :=
  beq_self_eq_true _

end Sys2Proof.Machine
end

section
/-! The decoder and the encoder (30_encoding R111 to R119): the encodings on each port read back, and what the
decoder answers is well formed. -/

namespace Sys2Proof.Machine

/-! ## Commands (30_encoding R116, R117, R119) -/

/-- 30_encoding R119: a command word counts by its bits 7:0. -/
theorem decodeCommand_congr {v w : Word} (h : v.extractLsb' 0 8 = w.extractLsb' 0 8) :
    decodeCommand v = decodeCommand w := by
  simp only [decodeCommand, BitVec.setWidth_eq_extractLsb' (show 8 ≤ 32 by decide), h]

theorem decode_commandWire (op : BitVec 8) : decode (commandWire op) = .ok (decodeOpcode op) := by
  have hop : (op.setWidth 32).setWidth 8 = op := BitVec.setWidth_setWidth_of_le op (by decide)
  show Except.ok (decodeOpcode ((op.setWidth 32).setWidth 8)) = Except.ok (decodeOpcode op)
  rw [hop]

/-- 46_host_control R311: an opcode out of the table is a reserved one. -/
theorem decodeOpcode_of_not_mem {op : BitVec 8} (h : op ∉ cmdOpcodes) : decodeOpcode op = .badCmd op := by
  simp only [cmdOpcodes, List.mem_cons, List.not_mem_nil, or_false, not_or] at h
  obtain ⟨hnop, hrun, hsoft, hclr, hcsum, henc, hdec, hver⟩ := h
  rw [decodeOpcode, if_neg hnop, if_neg hrun, if_neg hsoft, if_neg hclr, if_neg hcsum, if_neg henc,
    if_neg hdec, if_neg hver]

/-- Settles O3: the two words are one command. -/
theorem commandUpperBitsAreIgnored : Obligations.CommandUpperBitsAreIgnored := by
  intro v w h
  exact decodeCommand_congr h

/-! ## Frames at the RX port (20_memory R88, 30_encoding R112) -/

/-- A well-formed frame fits the receive buffer, so nothing of it is cut off. -/
theorem decodeRx_rxBytes (t : Word) {f : RxFrame} (hf : f.WellFormed) :
    decodeRx (rxBytes t f) =
      decodeRxType { type := t, seq := f.seq, length := f.length, csum := f.csum } f.payload := by
  obtain ⟨hlen, hbuf⟩ := hf
  have hfit : (rxBytes t f).length ≤ rxbufBytes := by
    simp only [rxBytes, List.length_append, headerBytes_length, maxRxPayload, rxbufBytes] at hbuf ⊢
    omega
  rw [decodeRx, List.take_of_length_le hfit, rxBytes, decodeFrame_headerBytes_of_le hlen]

theorem decodeRx_of_short {raw : Bytes} (h : raw.length < hdrBytes) :
    decodeRx raw = .rxReserved (.noHeader raw) := by
  have htake : (raw.take rxbufBytes).length < hdrBytes := (List.length_take_le' _ _).trans_lt h
  rw [decodeRx, decodeFrame_of_short htake]

/-- 30_encoding R112: the types from 4 on are reserved. -/
theorem decodeRxType_reserved {h : Header} (p : Bytes) (ht : 4 ≤ h.type.toNat) :
    decodeRxType h p =
      .rxReserved (.typed h.type { seq := h.seq, length := h.length, csum := h.csum, payload := p }) := by
  have hne {t : Word} (hlt : t.toNat < 4) : h.type ≠ t := by
    rintro rfl
    omega
  rw [decodeRxType, if_neg (hne (by decide)), if_neg (hne (by decide)), if_neg (hne (by decide)),
    if_neg (hne (by decide))]

/-! ## Frames at the TX port (30_encoding R115) -/

/-- A stamped frame passes every check of its form, so its type, number and payload decide. -/
theorem decodeTx_encodeFrame (t q : Word) {p : Bytes} (hp : p.length ≤ maxPayload) :
    decodeTx (encodeFrame t q p) =
      if t = typeData then .ok (.txData q p)
      else if 4 ≤ t.toNat then .error .reservedType
      else if p ≠ [] then .error .controlPayload
      else if t = typeStart then (if q = 0 then .ok .txStart else .error .startSeq)
      else if t = typeEnd then .ok (.txEnd q)
      else .ok (.txAck q) := by
  have hlen : (stampedHeader t q p).length.toNat = (encodeFrame t q p).length - hdrBytes := by
    rw [stampedHeader_length_toNat t q hp, encodeFrame_length, Nat.add_sub_cancel_left]
  have hvalid : ¬ verifyFrame (stampedHeader t q p) p = false := by
    simp [verifyFrame_stampedHeader]
  simp only [decodeTx, decodeFrame_encodeFrame t q hp]
  rw [if_neg (not_not.2 hlen), if_neg (Nat.not_lt.2 hp), if_neg hvalid]
  rfl

/-- Only a DATA row has an operand that a check bounds: its payload. -/
theorem decodeTx_wellFormed {frame : Bytes} {i : Instr} (h : decodeTx frame = .ok i) :
    WellFormed i = true := by
  unfold decodeTx at h
  split at h
  case h_1 => cases h
  case h_2 hdr p _ =>
    split_ifs at h with _ hlong
    all_goals cases h
    · exact decide_eq_true (Nat.not_lt.1 hlong)
    all_goals rfl

/-- Settles O2, port by port. -/
theorem decodedInstructionsAreWellFormed : Obligations.DecodedInstructionsAreWellFormed := by
  intro w i h
  cases w with
  | input e =>
    obtain rfl : decodeInput e = i := Except.ok.inj h
    exact decodeInput_wellFormed e
  | tx frame => exact decodeTx_wellFormed h

/-! ## Every instruction -/

/-- What the RX rows of a named type share: `row` is what the type selects. -/
theorem decode_rxBytes {t : Word} {row : RxFrame → Instr} {f : RxFrame}
    (hrow : ∀ q l c p, decodeRxType ⟨t, q, l, c⟩ p = row ⟨q, l, c, p⟩) (hf : decide f.WellFormed = true) :
    decode (.input (.rx (rxBytes t f))) = .ok (row f) := by
  have hdecode := decodeRx_rxBytes t (of_decide_eq_true hf)
  exact congrArg Except.ok (hdecode.trans (hrow _ _ _ _))

theorem decode_encode_rxReserved {f : RxOther} (h : f.wellFormed = true) :
    decode (encode (.rxReserved f)) = .ok (.rxReserved f) := by
  cases f with
  | typed t g =>
    obtain ⟨ht, hg⟩ : 4 ≤ t.toNat ∧ g.WellFormed := of_decide_eq_true h
    exact congrArg Except.ok ((decodeRx_rxBytes t hg).trans (decodeRxType_reserved _ ht))
  | noHeader raw => exact congrArg Except.ok (decodeRx_of_short (of_decide_eq_true h))

/-- Settles O1, row by row of the opcode table: a command by its opcode, a frame by its codec, and any other
event as it stands. -/
theorem encodedInstructionsDecodeBack : Obligations.EncodedInstructionsDecodeBack := by
  intro i hwf
  cases i with
  | nop => exact decode_commandWire 0x00
  | run => exact decode_commandWire 0x01
  | softReset => exact decode_commandWire 0x02
  | errClr => exact decode_commandWire 0x03
  | csum => exact decode_commandWire 0x10
  | encode => exact decode_commandWire 0x11
  | decode => exact decode_commandWire 0x12
  | verify => exact decode_commandWire 0x13
  | badCmd op =>
    exact (decode_commandWire op).trans (congrArg Except.ok (decodeOpcode_of_not_mem (of_decide_eq_true hwf)))
  | regRd index => rfl
  | regWr index data => exact congrArg Except.ok (if_neg (of_decide_eq_true hwf))
  | bufRd code offset => rfl
  | bufWr code offset data => rfl
  | rxStart f => exact decode_rxBytes (row := .rxStart) (fun _ _ _ _ => rfl) hwf
  | rxEnd f => exact decode_rxBytes (row := .rxEnd) (fun _ _ _ _ => rfl) hwf
  | rxData f => exact decode_rxBytes (row := .rxData) (fun _ _ _ _ => rfl) hwf
  | rxAck f => exact decode_rxBytes (row := .rxAck) (fun _ _ _ _ => rfl) hwf
  | rxReserved f => exact decode_encode_rxReserved hwf
  | txStart => exact decodeTx_encodeFrame typeStart 0 (p := []) (Nat.zero_le _)
  | txEnd e => exact decodeTx_encodeFrame typeEnd e (p := []) (Nat.zero_le _)
  | txData q p => exact decodeTx_encodeFrame typeData q (of_decide_eq_true hwf)
  | txAck a => exact decodeTx_encodeFrame typeAck a (p := []) (Nat.zero_le _)
  | tick => rfl
  | reset => rfl

/-- Settles O4: each word is what its instruction encodes to; ENCODE's sets a bit above its opcode. -/
theorem specWordsDecode : Obligations.SpecWordsDecode := by
  have back := encodedInstructionsDecodeBack
  refine ⟨back .run rfl, ?encodeWord, back (.badCmd 0x7F) rfl, back (.regRd 0x12) rfl,
    back (.bufWr 2 0x11 0x62) rfl, back (.rxData ⟨1, 2, 0x9E98, [0x61, 0x62]⟩) rfl, back (.txAck 1) rfl⟩
  case encodeWord =>
    have hsame : decodeCommand 0x00000111 = decodeCommand 0x00000011 := decodeCommand_congr rfl
    exact (congrArg Except.ok hsame).trans (back .encode rfl)

end Sys2Proof.Machine
end

section
/-! The TX rows (30_encoding R115) and the payload of the engine's DATA frames (20_memory R95). -/

namespace Sys2Proof.Machine

theorem origin_toNat (m : Mode) : (origin m).toNat = if m = .cumulative then 1 else 0 := by
  cases m <;> rfl

/-- 20_memory R95: the chunk of packet `q` is the bytes of INBUF from its offset, as many as IN_LEN leaves. -/
theorem chunkOf_eq (s : State) (q : Nat) :
    let off := (q - (origin s.cfg.mode).toNat) * s.cfg.chunk.toNat
    chunkOf s q = (List.range (min s.cfg.chunk.toNat (s.cfg.inLen.toNat - off))).map
      fun i => s.inbuf.read (off + i) :=
  Memory.readBytes_eq_map _ _ _

/-- Settles O46: each row is one `emit`, and the engine's DATA frame carries its chunk. -/
theorem txRowsEmitTheirFrames : Obligations.TxRowsEmitTheirFrames := by
  intro s
  refine ⟨rfl, fun _ => rfl, fun _ _ => rfl, fun _ => rfl, fun q => ?data⟩
  case data =>
    intro o off n _
    have hchunk := chunkOf_eq s q
    rw [origin_toNat] at hchunk
    exact congrArg (dataFrame (BitVec.ofNat 32 q)) hchunk

end Sys2Proof.Machine
end

section
/-! The Checksum-16 unit (40_checksum R140 to R146): what the fold and the word sum determine, the verification
identity, the detection of a changed payload byte, and the CSUM command. -/

namespace Sys2Proof.Machine

/-! ## The fold (R140) -/

/-- A residue modulo 65535 leaves one 16-bit value, or the two zeros of one's complement, which the fold keeps
apart: the clauses of `fold16_spec` determine it. -/
theorem fold16_eq_iff {x v : Nat} :
    fold16 x = v ↔ v ≤ 0xFFFF ∧ v % 65535 = x % 65535 ∧ (v = 0 ↔ x = 0) := by
  obtain ⟨hle, hmod, hzero⟩ := fold16_spec x
  constructor
  · rintro rfl
    exact ⟨hle, hmod, hzero⟩
  · rintro ⟨hle', hmod', hzero'⟩
    omega

theorem mod_eq_of_fold16_eq {x y : Nat} (h : fold16 x = fold16 y) : x % 65535 = y % 65535 := by
  obtain ⟨_, hx, _⟩ := fold16_spec x
  obtain ⟨_, hy, _⟩ := fold16_spec y
  rw [← hx, h, hy]

/-- Settles O7: each clause names a value that `fold16_eq_iff` admits, the last because a turn keeps the
residue and the zero. -/
theorem foldFollowsItsLoop : Obligations.FoldFollowsItsLoop := by
  intro x
  obtain ⟨hle, _, _⟩ := fold16_spec x
  refine ⟨hle, fun hx => fold16_eq_iff.2 ⟨hx, rfl, Iff.rfl⟩, fun _ => ?turn⟩
  case turn =>
    obtain ⟨hmod, hzero⟩ := foldTurn x
    obtain ⟨hle', hmod', hzero'⟩ := fold16_spec (x % 0x10000 + x / 0x10000)
    exact fold16_eq_iff.2 ⟨hle', hmod'.trans hmod, hzero'.trans hzero⟩

/-! ## The word sum and the checksum (R141 to R143) -/

theorem csum16_toNat (b : Bytes) : (csum16 b).toNat = 0xFFFF - fold16 (wordSum b) := by
  obtain ⟨hle, _, _⟩ := fold16_spec (wordSum b)
  rw [csum16, BitVec.toNat_not, BitVec.toNat_ofNat, Nat.mod_eq_of_lt (by omega)]

/-- Equal checksums: the word sums are congruent, as R145 says of what the checksum does not catch. -/
theorem wordSum_mod_eq_of_csum16_eq {a b : Bytes} (h : csum16 a = csum16 b) :
    wordSum a % 65535 = wordSum b % 65535 := by
  have htoNat := congrArg BitVec.toNat h
  rw [csum16_toNat, csum16_toNat] at htoNat
  obtain ⟨ha, _, _⟩ := fold16_spec (wordSum a)
  obtain ⟨hb, _, _⟩ := fold16_spec (wordSum b)
  exact mod_eq_of_fold16_eq (by omega)

/-- A 16-bit value in a 32-bit field is that field's low word; its high word is zero. -/
theorem wordSum_be32_setWidth (c : Half) : wordSum (be32 (c.setWidth 32)) = c.toNat := by
  have hc := c.isLt
  simp only [be32, wordSum, BitVec.extractLsb'_toNat, BitVec.toNat_setWidth, Nat.shiftRight_eq_div_pow]
  omega

theorem wordSum_headerBytes_append (h : Header) (p : Bytes) :
    wordSum (headerBytes h ++ p) = wordSum (headerBytes h) + wordSum p :=
  wordSum_append _ _ (by rw [headerBytes_length])

/-- The checksum field begins on a word boundary, so it adds its own words to the sum. -/
theorem wordSum_headerBytes (h : Header) :
    wordSum (headerBytes h) = wordSum (headerBytes { h with csum := 0 }) + wordSum (be32 h.csum) := by
  have hzero : wordSum (be32 0) = 0 := rfl
  simp only [headerBytes, wordSum_append, List.length_append, be32_length, hzero]
  omega

/-- R143: the checksum of a frame is that of its bytes with a zero checksum field. -/
theorem frameCsum_eq_csum16 (h : Header) (p : Bytes) :
    frameCsum h.type h.seq h.length p = csum16 (headerBytes { h with csum := 0 } ++ p) := rfl

/-- Settles O8: the checksum is the complement of the other words' folded sum, so the whole sum is a positive
multiple of 65535. -/
theorem validFrameSumsToAllOnes : Obligations.ValidFrameSumsToAllOnes := by
  intro h p hcsum
  have hword : wordSum (be32 h.csum) = 0xFFFF - fold16 (wordSum (headerBytes { h with csum := 0 } ++ p)) := by
    rw [hcsum, wordSum_be32_setWidth, frameCsum_eq_csum16, csum16_toNat]
  obtain ⟨hle, hmod, hzero⟩ := fold16_spec (wordSum (headerBytes { h with csum := 0 } ++ p))
  have hsum : wordSum (headerBytes h ++ p) =
      wordSum (headerBytes { h with csum := 0 } ++ p) + wordSum (be32 h.csum) := by
    rw [wordSum_headerBytes_append, wordSum_headerBytes_append, wordSum_headerBytes h, Nat.add_right_comm]
  rw [fold16_eq_iff, hsum, hword]
  omega

/-! ## A changed payload byte (R145) -/

/-- What byte `i` counts for in the word sum: the high byte of its word or the low one (R141). -/
def byteWeight (i : Nat) : Nat := if i % 2 = 0 then 256 else 1

theorem byteWeight_zero : byteWeight 0 = 256 := rfl

theorem byteWeight_one : byteWeight 1 = 1 := rfl

theorem byteWeight_add_two (i : Nat) : byteWeight (i + 2) = byteWeight i := by
  rw [byteWeight, Nat.add_mod_right, byteWeight]

/-- A byte counts by its weight, wherever it stands. -/
theorem wordSum_set (p : Bytes) {i : Nat} (hi : i < p.length) (v : Byte) :
    wordSum (p.set i v) + byteWeight i * (p.getD i 0).toNat = wordSum p + byteWeight i * v.toNat := by
  induction p using wordSum.induct generalizing i with
  | case1 => exact absurd hi (Nat.not_lt_zero i)
  | case2 a =>
    obtain rfl : i = 0 := Nat.lt_one_iff.1 hi
    simp only [List.set_cons_zero, List.getD_cons_zero, wordSum, byteWeight_zero]
    omega
  | case3 a b rest ih =>
    match i with
    | 0 =>
      simp only [List.set_cons_zero, List.getD_cons_zero, wordSum, byteWeight_zero]
      omega
    | 1 =>
      simp only [List.set_cons_succ, List.set_cons_zero, List.getD_cons_succ, List.getD_cons_zero, wordSum,
        byteWeight_one]
      omega
    | j + 2 =>
      have hrest := ih (i := j) (by simpa using hi)
      simp only [List.set_cons_succ, List.getD_cons_succ, wordSum, byteWeight_add_two]
      omega

/-- A changed byte moves the word sum by less than 65535, so never by a multiple of it. -/
theorem wordSum_set_mod_ne {p : Bytes} {i : Nat} (hi : i < p.length) {v : Byte} (hv : v ≠ p.getD i 0) :
    wordSum (p.set i v) % 65535 ≠ wordSum p % 65535 := by
  have hset := wordSum_set p hi v
  have hne : v.toNat ≠ (p.getD i 0).toNat := fun h => hv (BitVec.eq_of_toNat_eq h)
  have hnew := v.isLt
  have hold := (p.getD i 0).isLt
  unfold byteWeight at hset
  split at hset <;> omega

/-- The words of a payload follow whole header words, so a changed byte of it changes the checksum. -/
theorem frameCsum_set_ne (h : Header) {p : Bytes} {i : Nat} (hi : i < p.length) {v : Byte}
    (hv : v ≠ p.getD i 0) :
    frameCsum h.type h.seq h.length (p.set i v) ≠ frameCsum h.type h.seq h.length p := by
  rw [frameCsum_eq_csum16, frameCsum_eq_csum16]
  intro heq
  have hsum := wordSum_mod_eq_of_csum16_eq heq
  rw [wordSum_headerBytes_append, wordSum_headerBytes_append] at hsum
  exact wordSum_set_mod_ne hi hv (Nat.ModEq.add_left_cancel' _ hsum)

theorem verifyFrame_iff (h : Header) (p : Bytes) :
    verifyFrame h p = true ↔ h.csum = (frameCsum h.type h.seq h.length p).setWidth 32 :=
  beq_iff_eq

/-- Both payloads verify under one checksum field only where their checksums agree. -/
theorem frameCsum_eq_of_verifyFrame {h : Header} {p q : Bytes} (hp : verifyFrame h p = true)
    (hq : verifyFrame h q = true) :
    frameCsum h.type h.seq h.length p = frameCsum h.type h.seq h.length q := by
  rw [verifyFrame_iff] at hp hq
  have hwide := congrArg (BitVec.setWidth 16) (hp.symm.trans hq)
  simpa using hwide

/-- A mask with one bit of the byte set changes every byte. -/
theorem flipBit_ne (x : Byte) {b : Nat} (hb : b < 8) : x ^^^ (1#8 <<< b) ≠ x := by
  have hmask : ∀ b < 8, 1#8 <<< b ≠ 0#8 := by decide
  intro heq
  exact hmask b hb ((BitVec.xor_right_inj x).1 (heq.trans BitVec.xor_zero.symm))

/-- Settles O9: the flipped byte is another byte, and so the checksum another one. -/
theorem flippedPayloadBitFailsVerify : Obligations.FlippedPayloadBitFailsVerify := by
  intro h p i b hi hb hverify
  have hchanged := frameCsum_set_ne h hi (flipBit_ne (p.getD i 0) hb)
  exact Bool.eq_false_iff.2 fun hflipped => hchanged (frameCsum_eq_of_verifyFrame hflipped hverify)

/-! ## The CSUM command (R146) -/

/-- Settles O19: the arm is the length test, and FBUF's first bytes are its reads from offset 0 on. -/
theorem csumCommand : Obligations.CsumCommand := by
  intro s
  have hread := Memory.readBytes_eq_map s.fbuf 0 s.codec.fFlen.toNat
  simp only [Nat.zero_add] at hread
  show execCsum s = _
  rw [execCsum, hread]
  rfl

end Sys2Proof.Machine
end

section
/-! The laws of the frame codec (41_codec R162 to R164, R168): the law of `encode`, `decode` and `verify`, and
what reception makes of any byte sequence. -/

namespace Sys2Proof.Machine

/-- Settles O5: the header `encode` stamps is the one the statement writes out. -/
theorem frameRoundTrip : Obligations.FrameRoundTrip := by
  intro t q p hp
  exact ⟨decodeFrame_encodeFrame t q hp, verifyFrame_stampedHeader t q p⟩

/-! ## Reception (R164) -/

/-- The header fields that stand in the first 16 bytes of a frame (30_encoding R111). -/
def frameHeader (f : Bytes) : Header :=
  { type := rdBe32 f 0, seq := rdBe32 f 4, length := rdBe32 f 8, csum := rdBe32 f 12 }

/-- R162: a frame with room for a header decodes, to as many payload bytes as its length field and its end
allow. -/
theorem decodeFrame_of_hdrBytes_le {f : Bytes} (h : hdrBytes ≤ f.length) :
    decodeFrame f = some (frameHeader f,
      (f.drop hdrBytes).take (min (frameHeader f).length.toNat (f.length - hdrBytes))) :=
  if_neg (Nat.not_lt.2 h)

theorem rxParse_eq_some {raw : Bytes} {h : Header} {p : Bytes}
    (hd : decodeFrame (raw.take rxbufBytes) = some (h, p)) : rxParse raw = some (parsedOf h p) := by
  rw [rxParse, hd, Option.map_some]

theorem rxParse_of_short {raw : Bytes} (h : raw.length < hdrBytes) : rxParse raw = none := by
  have htake : (raw.take rxbufBytes).length < hdrBytes := (List.length_take_le' _ _).trans_lt h
  rw [rxParse, decodeFrame_of_short htake, Option.map_none]

/-- Of a frame with a header, the receive buffer leaves at most 2032 payload bytes (20_memory R88). -/
theorem rxParse_of_hdrBytes_le {raw : Bytes} (h : hdrBytes ≤ raw.length) :
    ∃ r, rxParse raw = some r ∧ r.payload.length ≤ maxRxPayload := by
  have htake : (raw.take rxbufBytes).length = min rxbufBytes raw.length := List.length_take
  have hlong : hdrBytes ≤ (raw.take rxbufBytes).length := htake ▸ le_min (by decide) h
  have hd := decodeFrame_of_hdrBytes_le hlong
  obtain ⟨_, hroom⟩ := decodeFrame_payload_le hd
  refine ⟨_, rxParse_eq_some hd, ?_⟩
  simp only [parsedOf, hdrBytes, rxbufBytes, maxRxPayload] at htake hroom ⊢
  omega

/-- 20_memory R88: nothing past the receive buffer's size is seen. -/
theorem rxParse_append {a : Bytes} (b : Bytes) (ha : a.length = rxbufBytes) :
    rxParse (a ++ b) = rxParse a := by
  rw [rxParse, rxParse, List.take_left' ha, ← ha, List.take_length]

/-- R164 on a header and the bytes behind it. -/
theorem rxParse_headerBytes (h : Header) (b : Bytes) :
    rxParse (headerBytes h ++ b) = some (parsedOf h ((b.take maxRxPayload).take h.length.toNat)) := by
  have hbuf : (headerBytes h ++ b).take rxbufBytes = headerBytes h ++ b.take maxRxPayload :=
    List.take_length_add_append (l₁ := headerBytes h) maxRxPayload
  apply rxParse_eq_some
  rw [hbuf, decodeFrame_headerBytes, ← List.take_eq_take_min]

/-- 45_receiver_reorder R291: the bytes behind the payload that the header announces are ignored. -/
theorem rxParse_headerBytes_append {h : Header} {p : Bytes} (extra : Bytes)
    (hlen : h.length.toNat = p.length) (hp : p.length ≤ maxRxPayload) :
    rxParse (headerBytes h ++ p ++ extra) = some (parsedOf h p) := by
  rw [List.append_assoc, rxParse_headerBytes, hlen, List.take_take, Nat.min_eq_left hp,
    List.take_left' rfl]

/-- R168: whatever stands behind an encoded frame, it arrives valid. -/
theorem rxParse_encodeFrame_append (t q : Word) {p : Bytes} (extra : Bytes) (hp : p.length ≤ maxPayload) :
    rxParse (encodeFrame t q p ++ extra) =
      some { hdr := stampedHeader t q p, payload := p, ok := true } := by
  rw [encodeFrame, rxParse_headerBytes_append extra (stampedHeader_length_toNat t q hp)
    (hp.trans (by decide)), parsedOf, verifyFrame_stampedHeader]

/-- Settles O6, clause by clause. -/
theorem receptionReadsHeaderAndLength : Obligations.ReceptionReadsHeaderAndLength :=
  ⟨fun _ hshort => rxParse_of_short hshort, fun _ hlong => rxParse_of_hdrBytes_le hlong,
    fun _ b ha => rxParse_append b ha,
    fun _ _ extra hlen hp => rxParse_headerBytes_append extra hlen hp,
    rxParse_headerBytes,
    fun t q _ extra hp => rxParse_encodeFrame_append t q extra hp⟩

end Sys2Proof.Machine
end

section
/-! The codec commands on FBUF (41_codec R165 to R167): the frame that DECODE and VERIFY read there, the header
that ENCODE stamps, and that the two fit together. -/

namespace Sys2Proof.Machine

/-! ## Runs of bytes in a buffer -/

theorem Memory.getD_readBytes (m : Memory) (off : Nat) {i n : Nat} (hi : i < n) :
    (m.readBytes off n).getD i 0 = m.read (off + i) := by
  simp [Memory.readBytes_eq_map, List.getD_eq_getElem?_getD, hi]

theorem Memory.readBytes_add (m : Memory) (off a b : Nat) :
    m.readBytes off (a + b) = m.readBytes off a ++ m.readBytes (off + a) b := by
  simp [Memory.readBytes_eq_map, List.range_add, Nat.add_assoc]

theorem Memory.drop_readBytes (m : Memory) (off : Nat) {k n : Nat} (hk : k ≤ n) :
    (m.readBytes off n).drop k = m.readBytes (off + k) (n - k) := by
  rw [← Nat.add_sub_cancel' hk, Memory.readBytes_add, List.drop_left' (Memory.length_readBytes m off k),
    Nat.add_sub_cancel_left]

theorem Memory.take_readBytes (m : Memory) (off : Nat) {k n : Nat} (hk : k ≤ n) :
    (m.readBytes off n).take k = m.readBytes off k := by
  rw [← Nat.add_sub_cancel' hk, Memory.readBytes_add, List.take_left' (Memory.length_readBytes m off k)]

/-- What was written reads back. -/
theorem Memory.readBytes_writeBytes (m : Memory) (off : Nat) (b : Bytes) :
    (m.writeBytes off b).readBytes off b.length = b := by
  refine List.ext_getElem (Memory.length_readBytes _ _ _) fun i hi hi' => ?_
  simp [Memory.readBytes_eq_map, Memory.read_writeBytes, hi']

/-- A write below a run of bytes leaves the run. -/
theorem Memory.readBytes_writeBytes_of_le (m : Memory) {off k : Nat} {b : Bytes} (n : Nat)
    (h : off + b.length ≤ k) : (m.writeBytes off b).readBytes k n = m.readBytes k n := by
  rw [Memory.readBytes_eq_map, Memory.readBytes_eq_map]
  refine List.map_congr_left fun i _ => ?_
  rw [Memory.read_writeBytes, if_neg (by omega)]

/-! ## DECODE and VERIFY (R166, R167) -/

/-- The big-endian word that stands in FBUF at an offset. -/
def fbufWord (s : State) (i : Nat) : Word :=
  s.fbuf.read i ++ s.fbuf.read (i + 1) ++ s.fbuf.read (i + 2) ++ s.fbuf.read (i + 3)

/-- The four words of a header in FBUF. -/
def fbufHeader (s : State) : Header :=
  { type := fbufWord s 0, seq := fbufWord s 4, length := fbufWord s 8, csum := fbufWord s 12 }

theorem rdBe32_readBytes (s : State) {i n : Nat} (h : i + 3 < n) :
    rdBe32 (s.fbuf.readBytes 0 n) i = fbufWord s i := by
  rw [rdBe32, Memory.getD_readBytes _ _ (by omega), Memory.getD_readBytes _ _ (by omega),
    Memory.getD_readBytes _ _ (by omega), Memory.getD_readBytes _ _ h]
  simp only [Nat.zero_add]
  rfl

theorem frameHeader_readBytes (s : State) {n : Nat} (h : hdrBytes ≤ n) :
    frameHeader (s.fbuf.readBytes 0 n) = fbufHeader s := by
  simp only [hdrBytes] at h
  rw [frameHeader, rdBe32_readBytes s (by omega), rdBe32_readBytes s (by omega),
    rdBe32_readBytes s (by omega), rdBe32_readBytes s (by omega), fbufHeader]

theorem fbufFrame_of_illegal {s : State}
    (h : fbufBytes < s.codec.fFlen.toNat ∨ s.codec.fFlen.toNat < hdrBytes) : fbufFrame s = none :=
  if_pos h

/-- A frame length in range: the header's words, and as much payload as they and F_FLEN allow. -/
theorem fbufFrame_of_legal {s : State} (hlow : hdrBytes ≤ s.codec.fFlen.toNat)
    (hhigh : s.codec.fFlen.toNat ≤ fbufBytes) :
    fbufFrame s = some (fbufHeader s, s.fbuf.readBytes hdrBytes
      (min (fbufHeader s).length.toNat (s.codec.fFlen.toNat - hdrBytes))) := by
  have hlen := Memory.length_readBytes s.fbuf 0 s.codec.fFlen.toNat
  rw [fbufFrame, if_neg (by omega), decodeFrame_of_hdrBytes_le (hlow.trans_eq hlen.symm),
    frameHeader_readBytes s hlow, hlen, Memory.drop_readBytes _ _ hlow,
    Memory.take_readBytes _ _ (Nat.min_le_right _ _), Nat.zero_add]

theorem execDecode_of_none {s : State} (h : fbufFrame s = none) :
    execDecode s = .next (raiseError .badLen s.codec.fFlen s) := by
  simp only [execDecode, h]

theorem execDecode_of_some {s : State} {h : Header} {p : Bytes} (hf : fbufFrame s = some (h, p)) :
    execDecode s = .next { s with codec := { s.codec with
      fType := h.type, fSeq := h.seq, fLen := h.length, fCsum := h.csum,
      fPlen := BitVec.ofNat 32 p.length } } := by
  simp only [execDecode, hf]

theorem execVerify_of_none {s : State} (h : fbufFrame s = none) :
    execVerify s = .next (raiseError .badLen s.codec.fFlen s) := by
  simp only [execVerify, h]

theorem execVerify_of_some {s : State} {h : Header} {p : Bytes} (hf : fbufFrame s = some (h, p)) :
    execVerify s = .next { s with codec := { s.codec with
      fValid := verifyFrame h p, fPlen := BitVec.ofNat 32 p.length } } := by
  simp only [execVerify, hf]

/-- Settles O21, by whether F_FLEN is in range. (`Sys2Proof.decodeCommand` is the decoder of command words, so
the name stands in a namespace of its own.) -/
theorem CodecCommands.decodeCommand : Obligations.DecodeCommand := by
  intro s
  constructor
  case left =>
    intro hlen
    exact execDecode_of_none (fbufFrame_of_illegal hlen)
  case right =>
    intro ⟨hlow, hhigh⟩
    have hexec := execDecode_of_some (fbufFrame_of_legal hlow hhigh)
    rw [Memory.length_readBytes] at hexec
    exact hexec

/-- Settles O22, by whether F_FLEN is in range. -/
theorem verifyCommand : Obligations.VerifyCommand := by
  intro s
  constructor
  case left =>
    intro hlen
    exact execVerify_of_none (fbufFrame_of_illegal hlen)
  case right =>
    intro ⟨hlow, hhigh⟩
    have hexec := execVerify_of_some (fbufFrame_of_legal hlow hhigh)
    rw [Memory.length_readBytes, Memory.readBytes_eq_map] at hexec
    exact hexec

/-! ## ENCODE (R165) -/

/-- The payload ENCODE takes: F_LEN bytes of FBUF, behind the place of the header. -/
def encodePayload (s : State) : Bytes := s.fbuf.readBytes hdrBytes s.codec.fLen.toNat

/-- The header ENCODE stamps. -/
def encodeHeader (s : State) : Header := stampedHeader s.codec.fType s.codec.fSeq (encodePayload s)

/-- The state ENCODE leaves where F_LEN is in range. -/
def encoded (s : State) : State :=
  { s with
    fbuf := s.fbuf.writeBytes 0 (headerBytes (encodeHeader s))
    codec := { s.codec with fCsum := (encodeHeader s).csum, fFlen := 16 + s.codec.fLen } }

theorem encodePayload_length (s : State) : (encodePayload s).length = s.codec.fLen.toNat :=
  Memory.length_readBytes _ _ _

theorem encodePayload_eq_map (s : State) :
    encodePayload s = (List.range s.codec.fLen.toNat).map fun i => s.fbuf.read (16 + i) :=
  Memory.readBytes_eq_map _ _ _

theorem ofNat_encodePayload_length (s : State) : BitVec.ofNat 32 (encodePayload s).length = s.codec.fLen := by
  rw [encodePayload_length, BitVec.ofNat_toNat, BitVec.setWidth_eq]

theorem encodeHeader_csum (s : State) :
    (encodeHeader s).csum =
      (frameCsum s.codec.fType s.codec.fSeq s.codec.fLen (encodePayload s)).setWidth 32 := by
  rw [encodeHeader, stampedHeader, ofNat_encodePayload_length]

theorem execEncode_of_le {s : State} (h : s.codec.fLen.toNat ≤ maxPayload) :
    execEncode s = .next (encoded s) := by
  have hframe : encodeFrame s.codec.fType s.codec.fSeq (encodePayload s) =
      headerBytes (encodeHeader s) ++ encodePayload s := rfl
  obtain ⟨_, _, _, hcsum⟩ := rdBe32_headerBytes (encodeHeader s) (encodePayload s)
  unfold execEncode
  rw [if_neg (Nat.not_lt.2 h)]
  dsimp only
  rw [← encodePayload, hframe, hcsum, List.take_left' (headerBytes_length _)]
  rfl

/-- The frame length of a payload in range does not wrap. -/
theorem encoded_fFlen_toNat {s : State} (h : s.codec.fLen.toNat ≤ maxPayload) :
    (encoded s).codec.fFlen.toNat = hdrBytes + s.codec.fLen.toNat := by
  simp only [maxPayload] at h
  show (16 + s.codec.fLen).toNat = 16 + s.codec.fLen.toNat
  bv_omega

theorem encoded_fFlen {s : State} (h : s.codec.fLen.toNat ≤ maxPayload) :
    (encoded s).codec.fFlen = BitVec.ofNat 32 (hdrBytes + s.codec.fLen.toNat) := by
  rw [← encoded_fFlen_toNat h, BitVec.ofNat_toNat, BitVec.setWidth_eq]

/-- ENCODE writes the frame's first 16 bytes and no other. -/
theorem read_encoded_fbuf (s : State) (a : Nat) :
    (encoded s).fbuf.read a =
      if a < 16 then (encodeFrame s.codec.fType s.codec.fSeq (encodePayload s)).getD a 0
      else s.fbuf.read a := by
  rw [encoded, Memory.read_writeBytes, headerBytes_length]
  by_cases ha : a < 16
  · have hhdr : a < (headerBytes (encodeHeader s)).length := by rwa [headerBytes_length]
    rw [if_pos ⟨Nat.zero_le a, by omega⟩, if_pos ha]
    exact (List.getD_append _ _ _ _ hhdr).symm
  · rw [if_neg (by omega), if_neg ha]

/-- Settles O20, by whether F_LEN is in range. -/
theorem encodeCommand : Obligations.EncodeCommand := by
  intro s
  constructor
  case left =>
    intro hlen
    exact if_pos hlen
  case right =>
    intro hlen
    rw [← encodePayload_eq_map]
    refine ⟨encoded s, execEncode_of_le hlen, read_encoded_fbuf s, ?frame⟩
    case frame =>
      rw [← encodeHeader_csum, ← encoded_fFlen hlen]
      rfl

/-! ## ENCODE, then VERIFY (R168) -/

/-- ENCODE leaves the whole frame in FBUF: the header it wrote, and the payload it wrote below. -/
theorem readBytes_encoded_fbuf (s : State) :
    (encoded s).fbuf.readBytes 0 (hdrBytes + s.codec.fLen.toNat) =
      encodeFrame s.codec.fType s.codec.fSeq (encodePayload s) := by
  have hheader := Memory.readBytes_writeBytes s.fbuf 0 (headerBytes (encodeHeader s))
  have hpayload := Memory.readBytes_writeBytes_of_le s.fbuf (off := 0) (k := hdrBytes)
    (b := headerBytes (encodeHeader s)) s.codec.fLen.toNat (by rw [headerBytes_length])
  rw [headerBytes_length] at hheader
  rw [Memory.readBytes_add, Nat.zero_add, encoded, hheader, hpayload]
  rfl

theorem fbufFrame_encoded {s : State} (h : s.codec.fLen.toNat ≤ maxPayload) :
    fbufFrame (encoded s) = some (encodeHeader s, encodePayload s) := by
  have hflen := encoded_fFlen_toNat h
  have hp : (encodePayload s).length ≤ maxPayload := (encodePayload_length s).trans_le h
  simp only [fbufFrame, hflen, readBytes_encoded_fbuf, decodeFrame_encodeFrame _ _ hp]
  refine if_neg ?_
  simp only [maxPayload, fbufBytes, hdrBytes] at h ⊢
  omega

/-- Settles O23: VERIFY reads back the header and the payload that ENCODE stamped. -/
theorem encodedFrameVerifies : Obligations.EncodedFrameVerifies := by
  intro s hlen
  exact ⟨_, _, execEncode_of_le hlen, execVerify_of_some (fbufFrame_encoded hlen),
    verifyFrame_stampedHeader _ _ _, ofNat_encodePayload_length s⟩

end Sys2Proof.Machine
end

section
/-! The connection handshake (42_handshake): what a listening and an ESTABLISHED receiver answer, and what a sender
takes and drops. Each frame is followed from its row to the one dispatch (46_host_control R321, R322). -/

namespace Sys2Proof.Machine

/-! ## The rows of the RX port -/

theorem exec_of_rxOutcome {i : Instr} {r : Option Parsed} (h : rxOutcome i = some r) (s : State) :
    exec i s = .next (rxEvent r s) := by
  unfold rxOutcome at h
  split at h
  case h_7 => cases h
  all_goals cases h; rfl

theorem parsedRx_type_ne {t type : Word} (ht : t ≠ type) (f : RxFrame) :
    ∀ p, some (parsedRx t f) = some p → p.hdr.type ≠ type := by
  rintro p ⟨⟩
  exact ht

/-- A frame of the reserved row has none of the four types: it has no header, or a type from 4 on. -/
theorem exec_rxReserved {g : RxOther} (hwf : WellFormed (.rxReserved g) = true) (s : State) :
    ∃ r, exec (.rxReserved g) s = .next (rxEvent r s) ∧
      ∀ t : Word, t.toNat < 4 → ∀ p, r = some p → p.hdr.type ≠ t := by
  obtain ⟨r, hr⟩ : ∃ r, rxOutcome (.rxReserved g) = some r := by cases g <;> exact ⟨_, rfl⟩
  refine ⟨r, exec_of_rxOutcome hr s, ?_⟩
  rintro t ht p rfl rfl
  rcases rxOutcome_row hwf hr with ⟨_, _, h⟩ | ⟨_, _, h⟩ | ⟨_, _, h⟩ | ⟨_, _, h⟩ | hge
  case inr.inr.inr.inr => omega
  all_goals cases h

/-! ## A valid frame of a type (46_host_control R322) -/

theorem validSeq_of_type_ne {type : Word} {r : Option Parsed} (h : ∀ p, r = some p → p.hdr.type ≠ type) :
    validSeq type r = none := by
  rw [Option.eq_none_iff_forall_ne_some]
  intro a ha
  obtain ⟨p, hp, htype⟩ := validSeq_eq_some ha
  exact h p hp htype

theorem validSeq_of_not_ok (type : Word) {p : Parsed} (h : p.ok = false) : validSeq type (some p) = none := by
  simp [validSeq_some, h]

theorem validSeq_parsedRx {t : Word} {f : RxFrame} (h : (parsedRx t f).ok = true) :
    validSeq t (some (parsedRx t f)) = some f.seq := by
  rw [validSeq_some, if_pos ⟨h, rfl⟩]
  rfl

/-! ## An accepted START (R205) -/

theorem startAccepted_parsedStart (s : State) (f : RxFrame) :
    startAccepted s (some (parsedRx typeStart f)) = true ↔
      (parsedRx typeStart f).ok = true ∨ s.cfg.verifyStart = false := by
  have htype : (parsedRx typeStart f).hdr.type = typeStart := rfl
  simp only [startAccepted, htype, beq_self_eq_true, Bool.true_and, Bool.or_eq_true, Bool.not_eq_true']

theorem startAccepted_of_type_ne (s : State) {r : Option Parsed} (h : ∀ p, r = some p → p.hdr.type ≠ typeStart) :
    ¬ startAccepted s r = true := by
  cases r with
  | none => exact Bool.false_ne_true
  | some p =>
    intro haccept
    simp only [startAccepted, Bool.and_eq_true, beq_iff_eq] at haccept
    exact h p rfl haccept.1

theorem startAck_eq (m : Mode) : startAck m = if m = .cumulative then 1 else 0 := by
  cases m <;> rfl

/-! ## The listening receiver (R203) -/

theorem rxEvent_listening {s : State} (hrun : s.eng.running = true) (hrole : s.cfg.role = .receiver)
    (hidle : s.eng.hs = .idle) (r : Option Parsed) : rxEvent r s = receiverListen r s := by
  rw [rxEvent_of_receiver hrun hrole, rxReceiver, hidle]

theorem receiverListen_drops {s : State} {r : Option Parsed} (h : ¬ startAccepted s r = true) :
    receiverListen r s = s :=
  if_neg h

theorem receiverListen_parsedStart (s : State) (f : RxFrame) :
    receiverListen (some (parsedRx typeStart f)) s =
      if (parsedRx typeStart f).ok = true ∨ s.cfg.verifyStart = false then
        { s with tx := s.tx ++ [ackF (startAck s.cfg.mode)], eng := { s.eng with hs := .established } }
      else s := by
  simp only [receiverListen, startAccepted_parsedStart]
  rfl

/-- Settles O30: the receiver listens for the one row whose frame can be an accepted START. -/
theorem listeningReceiverTakesStartOnly : Obligations.ListeningReceiverTakesStartOnly := by
  intro s hrun hrole hidle
  have hlisten := rxEvent_listening hrun hrole hidle
  have hdrop {i : Instr} {r : Option Parsed} (hrow : exec i s = .next (rxEvent r s))
      (htype : ∀ p, r = some p → p.hdr.type ≠ typeStart) : exec i s = .next s := by
    rw [hrow, hlisten, receiverListen_drops (startAccepted_of_type_ne s htype)]
  refine ⟨fun f => ?start, fun f => ⟨?endRow, ?data, ?ack⟩, fun g hwf => ?reserved⟩
  case start =>
    rw [exec_of_rxOutcome (r := some (parsedRx typeStart f)) rfl, hlisten, receiverListen_parsedStart, startAck_eq]
  case endRow => exact hdrop rfl (parsedRx_type_ne (t := typeEnd) (by decide) f)
  case data => exact hdrop rfl (parsedRx_type_ne (t := typeData) (by decide) f)
  case ack => exact hdrop rfl (parsedRx_type_ne (t := typeAck) (by decide) f)
  case reserved =>
    obtain ⟨r, hrow, hother⟩ := exec_rxReserved hwf s
    exact hdrop hrow (hother typeStart (by decide))

/-! ## The ESTABLISHED receiver (R201, R202, R204, R206) -/

/-- R206: no accepted START, no valid DATA and no valid END. -/
theorem receiverFrame_drops {s : State} {r : Option Parsed} (hstart : ¬ startAccepted s r = true)
    (hdata : validSeq typeData r = none) (hend : validSeq typeEnd r = none) : receiverFrame r s = s := by
  unfold receiverFrame
  rw [if_neg hstart]
  cases r with
  | none => rfl
  | some p =>
    cases hok : p.ok with
    | false => simp [hok]
    | true =>
      have hdata : p.hdr.type ≠ typeData := fun h => by simp [validSeq_some, hok, h] at hdata
      have hend : p.hdr.type ≠ typeEnd := fun h => by simp [validSeq_some, hok, h] at hend
      simp only [if_neg hdata, if_neg hend, ite_self]

theorem rxEvent_established_drops {s : State} (hrun : s.eng.running = true) (hrole : s.cfg.role = .receiver)
    (hest : s.eng.hs = .established) {r : Option Parsed} (hstart : ¬ startAccepted s r = true)
    (hdata : validSeq typeData r = none) (hend : validSeq typeEnd r = none) : rxEvent r s = s := by
  rw [rxEvent_of_receiver hrun hrole, rxReceiver, hest]
  exact receiverFrame_drops hstart hdata hend

/-- Settles O31: an accepted START is answered, and any other START is dropped. -/
theorem duplicateStartIsAnsweredAgain : Obligations.DuplicateStartIsAnsweredAgain := by
  intro s f hrun hrole hest
  rw [exec_of_rxOutcome (r := some (parsedRx typeStart f)) rfl, ← startAck_eq]
  congr 1
  split
  case isTrue haccept => rw [rxEvent_established hrun hrole hest, if_pos ⟨rfl, haccept⟩]; rfl
  case isFalse hno =>
    exact rxEvent_established_drops hrun hrole hest (mt (startAccepted_parsedStart s f).mp hno)
      (validSeq_of_type_ne (parsedRx_type_ne (by decide) f))
      (validSeq_of_type_ne (parsedRx_type_ne (by decide) f))

theorem rxEvent_established_end {s : State} (hrun : s.eng.running = true) (hrole : s.cfg.role = .receiver)
    (hest : s.eng.hs = .established) {f : RxFrame} (hok : (parsedRx typeEnd f).ok = true) :
    rxEvent (some (parsedRx typeEnd f)) s = receiverEnd f.seq s := by
  rw [rxEvent_established hrun hrole hest, if_neg (fun h => absurd h.1 (by decide)), hok]
  rfl

/-- Settles O32: R201 and R202 are the two branches of `receiverEnd`. -/
theorem validEndClosesOrIsAnswered : Obligations.ValidEndClosesOrIsAnswered := by
  intro s f hrun hrole hest hok
  rw [exec_of_rxOutcome (r := some (parsedRx typeEnd f)) rfl, rxEvent_established_end hrun hrole hest hok]
  rfl

/-- Settles O33: no row holds an accepted START, and each is invalid or neither DATA nor END. -/
theorem establishedReceiverDrops : Obligations.EstablishedReceiverDrops := by
  intro s hrun hrole hest
  have hdrop {i : Instr} {r : Option Parsed} (hrow : exec i s = .next (rxEvent r s))
      (hstart : ¬ startAccepted s r = true) (hdata : validSeq typeData r = none)
      (hend : validSeq typeEnd r = none) : exec i s = .next s := by
    rw [hrow, rxEvent_established_drops hrun hrole hest hstart hdata hend]
  refine ⟨fun f => ?ack, fun f hbad => ?endRow, fun f hbad => ?data, fun f hbad hverify => ?start,
    fun g hwf => ?reserved⟩
  case ack =>
    have hne {type : Word} (h : typeAck ≠ type) := parsedRx_type_ne h f
    exact hdrop rfl (startAccepted_of_type_ne s (hne (by decide)))
      (validSeq_of_type_ne (hne (by decide))) (validSeq_of_type_ne (hne (by decide)))
  case endRow =>
    exact hdrop rfl (startAccepted_of_type_ne s (parsedRx_type_ne (t := typeEnd) (by decide) f))
      (validSeq_of_not_ok _ hbad) (validSeq_of_not_ok _ hbad)
  case data =>
    exact hdrop rfl (startAccepted_of_type_ne s (parsedRx_type_ne (t := typeData) (by decide) f))
      (validSeq_of_not_ok _ hbad) (validSeq_of_not_ok _ hbad)
  case start =>
    have hstart : ¬ startAccepted s (some (parsedRx typeStart f)) = true := by
      rw [startAccepted_parsedStart, hbad, hverify]
      decide
    exact hdrop rfl hstart (validSeq_of_not_ok _ hbad) (validSeq_of_not_ok _ hbad)
  case reserved =>
    obtain ⟨r, hrow, hother⟩ := exec_rxReserved hwf s
    exact hdrop hrow (startAccepted_of_type_ne s (hother typeStart (by decide)))
      (validSeq_of_type_ne (hother typeData (by decide))) (validSeq_of_type_ne (hother typeEnd (by decide)))

/-! ## The sender (R196, R198) -/

theorem selectiveMark_of_no_ack {r : Option Parsed} (h : validSeq typeAck r = none) (s : State) :
    selectiveMark r s = s := by
  rw [selectiveMark, h]

/-- A frame that is no valid ACK only ends the poll of the selective data phase (44_sender_selective R254). -/
theorem rxSender_of_no_ack {r : Option Parsed} (h : validSeq typeAck r = none) (s : State) :
    rxSender r s =
      if s.eng.hs = .established ∧ s.cfg.mode = .selective then selectiveContinue (selectiveSlide s) else s := by
  rw [rxSender, pollFrame, selectiveMark_of_no_ack h, h]

/-- A valid ACK outside the selective data phase (46_host_control R322). -/
theorem rxSender_of_ack {r : Option Parsed} {a : Word} (h : validSeq typeAck r = some a) {s : State}
    (hphase : ¬(s.eng.hs = .established ∧ s.cfg.mode = .selective)) : rxSender r s = senderAck a s := by
  rw [rxSender, if_neg hphase, h]

/-- Settles O34: none of the rows holds a valid ACK. -/
theorem senderDropsOtherFrames : Obligations.SenderDropsOtherFrames := by
  intro s hrun hrole after
  have hother {i : Instr} {r : Option Parsed} (hrow : exec i s = .next (rxEvent r s))
      (hno : validSeq typeAck r = none) : exec i s = .next after := by
    rw [hrow, rxEvent_of_sender hrun hrole, rxSender_of_no_ack hno]
  refine ⟨fun f => ⟨?start, ?endRow, ?data⟩, fun f hbad => ?ack, fun g hwf => ?reserved⟩
  case start => exact hother rfl (validSeq_of_type_ne (parsedRx_type_ne (t := typeStart) (by decide) f))
  case endRow => exact hother rfl (validSeq_of_type_ne (parsedRx_type_ne (t := typeEnd) (by decide) f))
  case data => exact hother rfl (validSeq_of_type_ne (parsedRx_type_ne (t := typeData) (by decide) f))
  case ack => exact hother rfl (validSeq_of_not_ok typeAck hbad)
  case reserved =>
    obtain ⟨r, hrow, htype⟩ := exec_rxReserved hwf s
    exact hother hrow (validSeq_of_type_ne (htype typeAck (by decide)))

/-- Settles O42: in CLOSING the number of a valid ACK goes to the END-ACK rule. -/
theorem endAckCloses : Obligations.EndAckCloses := by
  intro s f hrun hrole hclosing hok
  have hphase : ¬(s.eng.hs = .established ∧ s.cfg.mode = .selective) := by simp [hclosing]
  rw [exec_of_rxOutcome (r := some (parsedRx typeAck f)) rfl, rxEvent_of_sender hrun hrole,
    rxSender_of_ack (validSeq_parsedRx hok) hphase, senderAck, hclosing]
  rfl

end Sys2Proof.Machine
end

section
/-! What a step puts on the TX port (43_sender_cumulative R229, 44_sender_selective R259): START, END, an ACK, or
the DATA frame of a number of the current window, all of which arrive valid (41_codec R168). -/

namespace Sys2Proof.Machine

/-! ## The frames of a connection -/

/-- What a step may leave on the TX port of the state `t` it ends in. -/
def SentFrame (t : State) (f : Bytes) : Prop :=
  f = startF ∨ (∃ e, f = endF e) ∨ (∃ a, f = ackF a) ∨
    ∃ q, t.eng.base.toNat ≤ q ∧ q < windowEnd t ∧ t.cfg.chunk.toNat ≤ maxPayload ∧ f = dataF t q

theorem sentFrame_end (t : State) (e : Word) : SentFrame t (endF e) := .inr (.inl ⟨e, rfl⟩)

theorem sentFrame_ack (t : State) (a : Word) : SentFrame t (ackF a) := .inr (.inr (.inl ⟨a, rfl⟩))

/-- All that a step from `s` to `t` adds to the TX port are frames of `t`'s connection. -/
def Emits (s t : State) : Prop := ∃ fs, t.tx = s.tx ++ fs ∧ ∀ f ∈ fs, SentFrame t f

theorem Emits.of_tx_eq {s t : State} (h : t.tx = s.tx) : Emits s t :=
  ⟨[], by rw [h, List.append_nil], by simp⟩

theorem Emits.of_frame {s t : State} {f : Bytes} (h : t.tx = s.tx ++ [f]) (hf : SentFrame t f) : Emits s t :=
  ⟨[f], h, by simpa using hf⟩

/-- A run of DATA packets inside the window of the state the step ends in. -/
theorem Emits.of_data {s t : State} {lo hi : Nat} (h : t.tx = s.tx ++ (List.range' lo (hi - lo)).map (dataF t))
    (hchunk : t.cfg.chunk.toNat ≤ maxPayload) (hlow : t.eng.base.toNat ≤ lo) (hhigh : hi ≤ windowEnd t) :
    Emits s t := by
  refine ⟨_, h, fun f hf => ?_⟩
  obtain ⟨q, hq, rfl⟩ := List.mem_map.1 hf
  rw [List.mem_range'_1] at hq
  exact .inr (.inr (.inr ⟨q, by omega, by omega, hchunk, rfl⟩))

/-- Only the port the step started from counts. -/
theorem Emits.of_source {s u t : State} (h : Emits u t) (htx : u.tx = s.tx) : Emits s t := by
  unfold Emits at *
  rwa [htx] at h

theorem Emits.sentFrame {s t : State} (h : Emits s t) {fs : List Bytes} (hfs : t.tx = s.tx ++ fs) :
    ∀ f ∈ fs, SentFrame t f := by
  obtain ⟨gs, hgs, hsent⟩ := h
  obtain rfl : fs = gs := List.append_cancel_left (hfs.symm.trans hgs)
  exact hsent

/-- A legal payload gives a frame of 16 to 1472 bytes that arrives valid (30_encoding R110, 41_codec R168). -/
theorem encodeFrame_valid (t q : Word) {p : Bytes} (hp : p.length ≤ maxPayload) :
    FrameValid (encodeFrame t q p) ∧ 16 ≤ (encodeFrame t q p).length ∧ (encodeFrame t q p).length ≤ 1472 := by
  have hparse := rxParse_encodeFrame_append t q [] hp
  rw [List.append_nil] at hparse
  rw [encodeFrame_length]
  exact ⟨⟨_, hparse, rfl⟩, Nat.le_add_right _ _, Nat.add_le_add_left hp 16⟩

theorem SentFrame.valid {t : State} {f : Bytes} (h : SentFrame t f) :
    FrameValid f ∧ 16 ≤ f.length ∧ f.length ≤ 1472 := by
  rcases h with rfl | ⟨e, rfl⟩ | ⟨a, rfl⟩ | ⟨q, _, _, hchunk, rfl⟩
  case inr.inr.inr => exact encodeFrame_valid typeData _ ((chunkOf_length_le t q).trans hchunk)
  all_goals exact encodeFrame_valid _ _ (Nat.zero_le _)

/-! ## The handshake and the cumulative sender -/

theorem closeEntry_emits (s : State) : Emits s (closeEntry s) :=
  .of_frame rfl (sentFrame_end _ _)

theorem startRetry_emits (s : State) : Emits s (startRetry s) := by
  unfold startRetry
  split
  case isTrue => exact .of_frame rfl (.inl rfl)
  case isFalse => exact .of_tx_eq rfl

theorem endRetry_emits (s : State) : Emits s (endRetry s) := by
  unfold endRetry
  split
  case isTrue => exact .of_frame rfl (sentFrame_end _ _)
  case isFalse => exact .of_tx_eq rfl

theorem cumulativeStart_emits {s : State} (hchunk : s.cfg.chunk.toNat ≤ maxPayload) :
    Emits s (cumulativeStart s) := by
  unfold cumulativeStart
  dsimp only
  split
  case isTrue => exact (closeEntry_emits _).of_source rfl
  case isFalse => exact .of_data rfl hchunk le_rfl le_rfl

/-- R224: the packets never sent before are in the window, since SENT_HI is not behind the base. -/
theorem cumulativeAdvance_emits {s : State} (hchunk : s.cfg.chunk.toNat ≤ maxPayload)
    (hsent : s.eng.base.toNat ≤ s.eng.sentHi.toNat) : Emits s (cumulativeAdvance s) := by
  unfold cumulativeAdvance
  split
  case isTrue => exact closeEntry_emits s
  case isFalse => exact .of_data rfl hchunk hsent le_rfl

/-- R223: an accepted ACK is no further than the window's end, which is SENT_HI (10_state R58 item 2). -/
theorem cumulativeAck_emits {s : State} (hchunk : s.cfg.chunk.toNat ≤ maxPayload)
    (hsent : s.eng.sentHi.toNat = windowEnd s) (a : Word) : Emits s (cumulativeAck a s) := by
  unfold cumulativeAck
  split
  case isTrue hacc => exact Emits.of_source (cumulativeAdvance_emits hchunk (hacc.2.trans hsent.ge)) rfl
  case isFalse => exact .of_tx_eq rfl

theorem cumulativeTimeout_emits {s : State} (hchunk : s.cfg.chunk.toNat ≤ maxPayload) :
    Emits s (cumulativeTimeout s) := by
  unfold cumulativeTimeout
  split
  case isTrue => exact .of_data rfl hchunk le_rfl le_rfl
  case isFalse => exact .of_tx_eq rfl

/-! ## The selective sender -/

theorem selectiveMark_tx (r : Option Parsed) (s : State) : (selectiveMark r s).tx = s.tx := by
  unfold selectiveMark
  repeat' split
  all_goals rfl

theorem slideLoop_tx (n : Nat) (s : State) : (slideLoop n s).tx = s.tx := by
  induction n generalizing s with
  | zero => rfl
  | succ n ih =>
    by_cases hturn : s.eng.base.toNat < s.eng.endSeq.toNat ∧ (slotOf s s.eng.base.toNat).acked = true
    case pos => rw [slideLoop_turn n s hturn]; exact ih _
    case neg => rw [slideLoop_stop _ s hturn]

/-- The loop sends DATA frames of the numbers it goes over, and no others (44_sender_selective R255). -/
theorem sendLoop_tx (n q : Nat) (s : State) :
    ∃ fs, (sendLoop n q s).tx = s.tx ++ fs ∧ ∀ f ∈ fs, ∃ p, q ≤ p ∧ p < q + n ∧ f = dataF s p := by
  induction n generalizing q s with
  | zero => exact ⟨[], (List.append_nil _).symm, by simp⟩
  | succ n ih =>
    have hslot := (sendSlot_spec q s).2
    have hdata : dataF (sendSlot q s) = dataF s := dataF_congr (by rw [hslot]) (by rw [hslot])
    obtain ⟨fs, htx, hfs⟩ := ih (q + 1) (sendSlot q s)
    refine ⟨(if sendDue s q = true then [dataF s q] else []) ++ fs, ?_, fun f hf => ?_⟩
    · rw [sendLoop, htx, hslot, List.append_assoc]
    · rcases List.mem_append.1 hf with hfirst | hrest
      · obtain ⟨_, rfl⟩ : sendDue s q = true ∧ f = dataF s q := by simpa using hfirst
        exact ⟨q, le_rfl, by omega, rfl⟩
      · obtain ⟨p, hlow, hhigh, rfl⟩ := hfs f hrest
        exact ⟨p, by omega, by omega, by rw [hdata]⟩

theorem sendPass_frame (s : State) : KeepsPhase s (sendPass s) ∧ (sendPass s).eng.base = s.eng.base :=
  sendLoop_frame _ _ s

/-- The send pass, whatever the next poll's start (R255): it goes over the window and leaves it where it is. -/
theorem sendPass_emits {s : State} (hchunk : s.cfg.chunk.toNat ≤ maxPayload) (p : Word) :
    Emits s { sendPass s with eng := { (sendPass s).eng with pollStart := p } } := by
  obtain ⟨⟨hcfg, _, hend⟩, hbase⟩ := sendPass_frame s
  have hsends : SendsOnly s (sendPass s) := sendLoop_sendsOnly _ _ s
  obtain ⟨fs, htx, hfs⟩ := sendLoop_tx (windowEnd s - s.eng.base.toNat) s.eng.base.toNat s
  have hwindow : windowEnd (sendPass s) = windowEnd s := by simp only [windowEnd, hcfg, hend, hbase]
  have hdata : dataF (sendPass s) = dataF s := dataF_congr hcfg (by rw [hsends])
  refine ⟨fs, htx, fun f hf => ?_⟩
  obtain ⟨q, hlow, hhigh, rfl⟩ := hfs f hf
  have hin : (sendPass s).eng.base.toNat ≤ q ∧ q < windowEnd (sendPass s) := by
    rw [hwindow, hbase]
    omega
  exact .inr (.inr (.inr ⟨q, hin.1, hin.2, hcfg ▸ hchunk, (congrFun hdata q).symm⟩))

theorem selectiveContinue_emits {s : State} (hchunk : s.cfg.chunk.toNat ≤ maxPayload) :
    Emits s (selectiveContinue s) := by
  unfold selectiveContinue
  split
  case isTrue => exact closeEntry_emits s
  case isFalse => exact sendPass_emits hchunk _

theorem pollFrame_emits {s : State} (hchunk : s.cfg.chunk.toNat ≤ maxPayload) (r : Option Parsed) :
    Emits s (pollFrame r s) := by
  have hphase : KeepsPhase s (selectiveSlide (selectiveMark r s)) :=
    (selectiveMark_keepsPhase r s).trans (slideLoop_keepsPhase _ _)
  have hcont := selectiveContinue_emits (s := selectiveSlide (selectiveMark r s)) (hphase.1 ▸ hchunk)
  exact hcont.of_source ((slideLoop_tx _ _).trans (selectiveMark_tx r s))

theorem pollTimeout_emits {s : State} (hchunk : s.cfg.chunk.toNat ≤ maxPayload) : Emits s (pollTimeout s) := by
  have hphase : KeepsPhase s (selectiveSlide s) := slideLoop_keepsPhase _ s
  unfold pollTimeout
  split
  case isTrue => exact (sendPass_emits (hphase.1 ▸ hchunk) _).of_source (slideLoop_tx _ s)
  case isFalse => exact .of_tx_eq rfl

/-! ## The sender's two events -/

theorem senderStartAck_emits {s : State} (hchunk : s.cfg.chunk.toNat ≤ maxPayload) (a : Word) :
    Emits s (senderStartAck a s) := by
  rcases senderStartAck_cases a s with e | ⟨_, e⟩ | ⟨_, e⟩ <;> rw [e]
  · exact .of_tx_eq rfl
  · exact Emits.of_source (cumulativeStart_emits hchunk) rfl
  · exact Emits.of_source (selectiveContinue_emits hchunk) rfl

theorem endAck_emits (a : Word) (s : State) : Emits s (endAck a s) := by
  unfold endAck
  split <;> exact .of_tx_eq rfl

theorem senderTimer_emits {s : State} (hchunk : s.cfg.chunk.toNat ≤ maxPayload) : Emits s (senderTimer s) := by
  unfold senderTimer
  split
  case h_1 => exact startRetry_emits s
  case h_2 =>
    split
    case h_1 => exact cumulativeTimeout_emits hchunk
    case h_2 => exact pollTimeout_emits hchunk
  case h_3 => exact endRetry_emits s
  case h_4 | h_5 => exact .of_tx_eq rfl

theorem rxSender_emits {s : State} (hok : SenderOk s) (hchunk : s.cfg.chunk.toNat ≤ maxPayload)
    (r : Option Parsed) : Emits s (rxSender r s) := by
  unfold rxSender
  split
  case isTrue => exact pollFrame_emits hchunk r
  case isFalse hpoll =>
    split
    case h_2 => exact .of_tx_eq rfl
    case h_1 a _ =>
      unfold senderAck
      split
      case h_1 => exact senderStartAck_emits hchunk a
      case h_2 hest =>
        have hmode : s.cfg.mode = .cumulative := by
          cases hm : s.cfg.mode with
          | cumulative => rfl
          | selective => exact absurd ⟨hest, hm⟩ hpoll
        obtain ⟨_, _, hsent⟩ := hok.cumulative hmode hest
        exact cumulativeAck_emits hchunk hsent a
      case h_3 => exact endAck_emits a s
      case h_4 | h_5 => exact .of_tx_eq rfl

/-! ## The receiver answers with ACKs -/

theorem emit_ack_emits {s u : State} (htx : u.tx = s.tx) (a : Word) : Emits s (emit (ackF a) u) :=
  .of_frame (by rw [emit_tx, htx]) (sentFrame_ack _ a)

theorem drainLoop_tx (n : Nat) (s : State) : (Outcome.state (drainLoop n s)).tx = s.tx := by
  induction n generalizing s with
  | zero => rfl
  | succ n ih =>
    rcases drainLoop_succ_cases n s with e | ⟨p, _, _, e⟩ | e <;> rw [e]
    · rfl
    · exact ih (drained p s)
    · rfl

theorem bufferAhead_tx (q : Word) (p : Bytes) (s : State) : (bufferAhead q p s).tx = s.tx := by
  unfold bufferAhead; split <;> rfl

theorem ackData_emits {s u : State} (htx : u.tx = s.tx) (c : DataCase) (q : Word) : Emits s (ackData c q u) := by
  unfold ackData
  split
  case h_2 => exact .of_tx_eq htx
  case h_1 | h_3 => exact emit_ack_emits htx _

theorem receiveData_emits (q : Word) (p : Bytes) (s : State) : Emits s (receiveData q p s) := by
  cases hc : dataCase s q with
  | inOrder =>
    rcases receiveData_inOrder_cases (p := p) hc with e | ⟨t, hd, hl⟩
    · rw [e]; exact .of_tx_eq rfl
    · have hdrain : (Outcome.state (drain t)).tx = s.tx :=
        (drainLoop_tx _ t).trans (by rw [(deliver_eq_ok hd).2])
      rcases hl with hl | ⟨u, hl, e⟩ <;> rw [hl] at hdrain
      · exact .of_tx_eq hdrain
      · rw [e]; exact ackData_emits hdrain _ q
  | ahead =>
    simp only [receiveData, hc]
    exact ackData_emits (bufferAhead_tx q p s) _ q
  | behind | outOfWindow =>
    simp only [receiveData, hc]
    exact ackData_emits rfl _ q

theorem receiverListen_emits (r : Option Parsed) (s : State) : Emits s (receiverListen r s) := by
  unfold receiverListen
  split
  case isTrue => exact .of_frame rfl (sentFrame_ack _ _)
  case isFalse => exact .of_tx_eq rfl

theorem receiverEnd_emits (e : Word) (s : State) : Emits s (receiverEnd e s) := by
  unfold receiverEnd
  split
  case isTrue => exact .of_frame rfl (sentFrame_ack _ _)
  case isFalse => exact emit_ack_emits rfl _

theorem receiverFrame_emits (r : Option Parsed) (s : State) : Emits s (receiverFrame r s) := by
  unfold receiverFrame
  split_ifs
  case pos => exact emit_ack_emits rfl _
  case neg =>
    cases r with
    | none => exact .of_tx_eq rfl
    | some f =>
      dsimp only
      split_ifs
      · exact .of_tx_eq rfl
      · exact receiveData_emits _ _ s
      · exact receiverEnd_emits _ s
      · exact .of_tx_eq rfl

theorem rxReceiver_emits (r : Option Parsed) (s : State) : Emits s (rxReceiver r s) := by
  unfold rxReceiver
  split
  case h_1 => exact receiverListen_emits r s
  case h_2 => exact receiverFrame_emits r s
  case h_3 | h_4 | h_5 => exact .of_tx_eq rfl

/-! ## Every instruction that an event decodes to -/

/-- RUN accepted the chunk size of a running sender (46_host_control R312). -/
theorem Inv.chunk_le {s : State} (hi : Inv s) (hrun : s.eng.running = true) (hrole : s.cfg.role = .sender) :
    s.cfg.chunk.toNat ≤ maxPayload :=
  ((hi.config hrun).chunk hrole).2

theorem rxEvent_emits {s : State} (hi : Inv s) (r : Option Parsed) : Emits s (rxEvent r s) := by
  cases hrun : s.eng.running with
  | false => rw [rxEvent, if_pos hrun]; exact .of_tx_eq rfl
  | true =>
    cases hrole : s.cfg.role with
    | sender =>
      rw [rxEvent_of_sender hrun hrole]
      exact rxSender_emits (hi.sender hrun hrole) (hi.chunk_le hrun hrole) r
    | receiver => rw [rxEvent_of_receiver hrun hrole]; exact rxReceiver_emits r s

theorem roleStart_emits (s : State) : Emits s (roleStart (initConnection s)) := by
  unfold roleStart
  split
  case h_1 => exact .of_frame rfl (.inl rfl)
  case h_2 => exact .of_tx_eq rfl

/-- A RUN that is refused sends nothing, one that starts a sender sends START (42_handshake R192). -/
theorem execRun_emits {s t : State} (h : execRun s = .next t) : Emits s t := by
  unfold execRun at h
  repeat' split at h
  case h_2 => cases h; exact roleStart_emits s
  all_goals cases h; exact .of_tx_eq rfl

/-- The codec commands have no port (46_host_control R311). -/
theorem codecCommand_tx {i : Instr} {s t : State} (hi : i ∈ [Instr.csum, .encode, .decode, .verify])
    (h : exec i s = .next t) : t.tx = s.tx := by
  simp only [List.mem_cons, List.not_mem_nil, or_false] at hi
  rcases hi with rfl | rfl | rfl | rfl
  all_goals
    simp only [exec, execCsum, execEncode, execDecode, execVerify] at h
    split at h <;> (cases h; rfl)

theorem writeReg_tx (s : State) (i : BitVec 8) (v : Word) : (writeReg s i v).tx = s.tx := by
  unfold writeReg writeCfg
  repeat' split
  all_goals rfl

/-- What each instruction that is no TX row adds to the port; RESET, which empties the port, stands apart. -/
theorem exec_emits {i : Instr} {s t : State} (hwf : WellFormed i = true) (htx : i.isTx = false)
    (hreset : i ≠ .reset) (hi : Inv s) (h : exec i s = .next t) : Emits s t := by
  cases i with
  | reset => exact absurd rfl hreset
  | txStart | txEnd _ | txData _ _ | txAck _ => cases htx
  | run => exact execRun_emits h
  | csum | encode | decode | verify => exact .of_tx_eq (codecCommand_tx (by simp) h)
  | nop | softReset | errClr | badCmd _ | regRd _ | bufRd _ _ => cases h; exact .of_tx_eq rfl
  | regWr index data =>
    rw [exec_regWr_of_ne_cmd (of_decide_eq_true hwf)] at h
    cases h
    exact .of_tx_eq (writeReg_tx s index data)
  | bufWr code offset data =>
    cases h
    exact .of_tx_eq (by rw [writeBuf_frame])
  | rxStart f | rxEnd f | rxData f | rxAck f => cases h; exact rxEvent_emits hi _
  | rxReserved f => cases f <;> (cases h; exact rxEvent_emits hi _)
  | tick =>
    have hticked : Inv { s with now := s.now + 1 } := (LeavesConnection.of_ports rfl).inv hi
    cases h
    split
    case isTrue hsender =>
      exact (senderTimer_emits (hticked.chunk_le hsender.1 hsender.2)).of_source rfl
    case isFalse => exact .of_tx_eq rfl

/-! ## Every step -/

theorem decodeOpcode_isTx (op : BitVec 8) : (decodeOpcode op).isTx = false := by
  unfold decodeOpcode
  split_ifs <;> rfl

theorem decodeRx_isTx (raw : Bytes) : (decodeRx raw).isTx = false := by
  unfold decodeRx decodeRxType
  split
  case h_1 => rfl
  case h_2 => dsimp only; split_ifs <;> rfl

/-- No event decodes to a TX row (log 11). -/
theorem decodeInput_isTx (e : Input) : (decodeInput e).isTx = false := by
  cases e with
  | reg write index data =>
    cases write
    case false => rfl
    case true =>
      show (if index = cmdIndex then decodeCommand data else .regWr index data).isTx = false
      split
      case isTrue => exact decodeOpcode_isTx _
      case isFalse => rfl
  | buf write code offset data => cases write <;> rfl
  | rx raw => exact decodeRx_isTx raw
  | tick => rfl
  | reset => rfl

/-- RESET empties the port, so that it adds no frame to what stood there (70_reset R370). -/
theorem exec_reset_adds_none {s t : State} {fs : List Bytes} (h : exec .reset s = .next t)
    (hfs : t.tx = s.tx ++ fs) : fs = [] := by
  cases h
  exact (List.append_eq_nil_iff.1 hfs.symm).2

theorem step_sentFrame {s t : State} {fs : List Bytes} (hi : Inv s) (hstep : step s = .next t)
    (hfs : t.tx = s.tx ++ fs) : ∀ f ∈ fs, SentFrame t f := by
  cases hq : s.inputs with
  | nil =>
    rw [step_of_inputs_nil hq] at hstep
    cases hstep
    exact (Emits.of_tx_eq rfl).sentFrame hfs
  | cons e rest =>
    rw [step_of_inputs_cons hq] at hstep
    have htaken : Inv { s with inputs := rest } := (LeavesConnection.of_ports rfl).inv hi
    by_cases hreset : decodeInput e = .reset
    case pos =>
      rw [hreset] at hstep
      simp [exec_reset_adds_none hstep hfs]
    case neg =>
      exact (exec_emits (decodeInput_wellFormed e) (decodeInput_isTx e) hreset htaken hstep).sentFrame hfs

/-- Settles O56: each frame a step adds is one of the connection's, and those are valid and of the window. -/
theorem sentFramesStayInTheWindow : Obligations.SentFramesStayInTheWindow := by
  intro s t fs hi hstep hfs f hf
  have hsent := step_sentFrame hi hstep hfs f hf
  obtain ⟨hvalid, hlow, hhigh⟩ := hsent.valid
  refine ⟨hvalid, hlow, hhigh, ?_⟩
  rcases hsent with h | h | h | ⟨q, hbase, hend, _, h⟩
  · exact .inl h
  · exact .inr (.inl h)
  · exact .inr (.inr (.inl h))
  · obtain ⟨hwindow, hnumber⟩ := lt_min_iff.1 hend
    exact .inr (.inr (.inr ⟨q, hbase, hwindow, hnumber, h⟩))

end Sys2Proof.Machine
end

section
/-! The cumulative sender and an ACK (43_sender_cumulative R222 to R224): the row is followed to the one dispatch,
and from there to the operation of the handshake state. -/

namespace Sys2Proof.Machine

/-- In cumulative mode the number of a valid ACK goes to the operation of the handshake state
(46_host_control R322). -/
theorem exec_rxAck_of_cumulative {s : State} {f : RxFrame} (hrun : s.eng.running = true) (hrole : s.cfg.role = .sender)
    (hmode : s.cfg.mode = .cumulative) (hok : (parsedRx typeAck f).ok = true) :
    exec (.rxAck f) s = .next (senderAck f.seq s) := by
  have hphase : ¬(s.eng.hs = .established ∧ s.cfg.mode = .selective) := by simp [hmode]
  rw [exec_of_rxOutcome (r := some (parsedRx typeAck f)) rfl, rxEvent_of_sender hrun hrole,
    rxSender_of_ack (validSeq_parsedRx hok) hphase]

theorem senderStartAck_of_cumulative {s : State} (hmode : s.cfg.mode = .cumulative) (a : Word) :
    senderStartAck a s =
      if a ≠ 1 then s else cumulativeStart { s with eng := { s.eng with hs := .established } } := by
  simp only [senderStartAck, startAck, hmode, ite_not]

/-- R222 at the numbers of cumulative mode, where ORIGIN is 1. -/
theorem cumulativeStart_of_cumulative {s : State} (hmode : s.cfg.mode = .cumulative) :
    cumulativeStart s =
      if s.eng.endSeq = 1 then { s with
        tx := s.tx ++ [endF 1]
        eng := { s.eng with hs := .closing, base := 1, nextAck := 2, waitStart := s.now } }
      else
        let w := min (1 + s.cfg.window.toNat) s.eng.endSeq.toNat
        { s with
          tx := s.tx ++ (List.range' 1 (w - 1)).map (dataF s)
          eng := { s.eng with
            base := 1, nextAck := 2, sentHi := BitVec.ofNat 32 w, waitStart := s.now } } := by
  have horigin : origin s.cfg.mode = 1 := by rw [hmode]; rfl
  unfold cumulativeStart
  simp only [horigin, eq_comm (a := (1 : Word))]
  split
  case isTrue hend => simp only [closeEntry, emit, hend]; rfl
  case isFalse => rfl

/-- Settles O39: START_ACK of cumulative mode is 1, and the data phase starts in ESTABLISHED. -/
theorem startAckOpensTheFirstWindow : Obligations.StartAckOpensTheFirstWindow := by
  intro s f hrun hrole hmode hest hok w
  rw [exec_rxAck_of_cumulative hrun hrole hmode hok, senderAck, hest]
  refine congrArg Host.Outcome.next ?_
  show senderStartAck f.seq s = _
  rw [senderStartAck_of_cumulative hmode]
  exact if_congr Iff.rfl rfl (cumulativeStart_of_cumulative hmode)

/-- Settles O41: R223's test, then the two cases of R224 at the moved base, whose numbers differ from the
state's before in BASE and NEXT_ACK only. -/
theorem cumulativeAckAdvancesTheWindow : Obligations.CumulativeAckAdvancesTheWindow := by
  intro s f hrun hrole hmode hest hok wend w2
  rw [exec_rxAck_of_cumulative hrun hrole hmode hok, senderAck, hest]
  refine congrArg Host.Outcome.next ?_
  show cumulativeAck f.seq s = _
  rw [cumulativeAck]
  refine if_congr Iff.rfl ?accepted rfl
  case accepted =>
    rw [cumulativeAdvance]
    exact if_congr Iff.rfl rfl rfl

end Sys2Proof.Machine
end

section
/-! The selective sender (44_sender_selective R251 to R255): what the send pass and the slide do to the tables, BASE
and the TX port, and from them what an ACK does in ESTABLISHING and in ESTABLISHED. -/

namespace Sys2Proof.Machine

/-! ## The send pass (R255) -/

/-- A packet's turn does not change which other packets are due. -/
theorem sendDue_sendSlot_of_ne {p q : Nat} (h : p ≠ q) (s : State) : sendDue (sendSlot q s) p = sendDue s p := by
  obtain ⟨hslots, hframe⟩ := sendSlot_spec q s
  have hslot : slotOf (sendSlot q s) p = slotOf s p := by rw [hslots, if_neg (fun hp => h hp.1)]
  have hnow : (sendSlot q s).now = s.now := by rw [hframe]
  have hcfg : (sendSlot q s).cfg = s.cfg := by rw [hframe]
  simp only [sendDue, hslot, hnow, hcfg]

/-- The loop stamps the due packets among the `n` from `q` on. -/
theorem slotOf_sendLoop (n q : Nat) (s : State) (p : Nat) :
    slotOf (sendLoop n q s) p =
      if q ≤ p ∧ p < q + n ∧ sendDue s p = true then { slotOf s p with sent := true, timer := s.now }
      else slotOf s p := by
  induction n generalizing q s with
  | zero => exact (if_neg (by omega)).symm
  | succ n ih =>
    obtain ⟨hslots, hframe⟩ := sendSlot_spec q s
    have hnow : (sendSlot q s).now = s.now := by rw [hframe]
    rw [sendLoop, ih, hnow]
    by_cases hp : p = q
    case pos =>
      subst hp
      rw [if_neg (by omega), hslots]
      exact if_congr (by simp) rfl rfl
    case neg =>
      have hslot : slotOf (sendSlot q s) p = slotOf s p := by rw [hslots, if_neg (fun h => hp h.1)]
      rw [sendDue_sendSlot_of_ne hp, hslot]
      exact if_congr (by grind) rfl rfl

/-- The loop sends the due packets among the `n` from `q` on, in increasing order. -/
theorem sendLoop_eq (n q : Nat) (s : State) :
    sendLoop n q s = { s with
      tx := s.tx ++ ((List.range' q n).filter (sendDue s)).map (dataF s)
      eng := { s.eng with slots := (sendLoop n q s).eng.slots } } := by
  induction n generalizing q s with
  | zero => simp [sendLoop]
  | succ n ih =>
    have hframe := (sendSlot_spec q s).2
    have hdata : dataF (sendSlot q s) = dataF s := dataF_congr (by rw [hframe]) (by rw [hframe])
    have hdue : (List.range' (q + 1) n).filter (sendDue (sendSlot q s)) =
        (List.range' (q + 1) n).filter (sendDue s) :=
      List.filter_congr fun p hp => sendDue_sendSlot_of_ne (by rw [List.mem_range'_1] at hp; omega) s
    have htx : (sendSlot q s).tx ++ ((List.range' (q + 1) n).filter (sendDue s)).map (dataF s) =
        s.tx ++ ((List.range' q (n + 1)).filter (sendDue s)).map (dataF s) := by
      rw [hframe, List.range'_succ, List.filter_cons]
      split <;> simp
    rw [sendLoop, ih, hdata, hdue, htx, hframe]

theorem slotOf_sendPass (s : State) (q : Nat) :
    slotOf (sendPass s) q =
      if s.eng.base.toNat ≤ q ∧ q < windowEnd s ∧ sendDue s q = true then
        { slotOf s q with sent := true, timer := s.now }
      else slotOf s q := by
  rw [sendPass, slotOf_sendLoop]
  exact if_congr (by grind) rfl rfl

theorem sendPass_eq (s : State) :
    sendPass s = { s with
      tx := s.tx ++
        ((List.range' s.eng.base.toNat (windowEnd s - s.eng.base.toNat)).filter (sendDue s)).map (dataF s)
      eng := { s.eng with slots := (sendPass s).eng.slots } } :=
  sendLoop_eq _ _ s

/-- Settles O45: the send pass is the loop over the window. -/
theorem sendPassSendsTheDuePackets : Obligations.SendPassSendsTheDuePackets :=
  fun s => ⟨slotOf_sendPass s, sendPass_eq s⟩

/-- The pass leaves NOW alone, so that the next poll starts at the NOW before it (R251, R254). -/
theorem selectiveContinue_eq (s : State) :
    selectiveContinue s =
      if s.eng.base = s.eng.endSeq then closeEntry s
      else { sendPass s with eng := { (sendPass s).eng with pollStart := s.now } } := by
  have hnow : (sendPass s).now = s.now := by rw [sendPass_eq]
  rw [selectiveContinue]
  dsimp only
  rw [hnow]

/-! ## The slide (R253) -/

/-- `t` is `s` with BASE moved over acknowledged packets, no further than the END number, and their entries
cleared. -/
structure Slides (s t : State) : Prop where
  low : s.eng.base.toNat ≤ t.eng.base.toNat
  high : t.eng.base.toNat ≤ s.eng.endSeq.toNat
  passed : ∀ q, s.eng.base.toNat ≤ q → q < t.eng.base.toNat → (slotOf s q).acked = true
  slots : ∀ q, slotOf t q =
    if s.eng.base.toNat ≤ q ∧ q < t.eng.base.toNat then Slot.empty else slotOf s q
  frame : t = { s with eng := { s.eng with base := t.eng.base, slots := t.eng.slots } }

theorem Slides.refl {s : State} (h : s.eng.base.toNat ≤ s.eng.endSeq.toNat) : Slides s s where
  low := le_rfl
  high := h
  passed := fun q hlow hhigh => by omega
  slots := fun q => (if_neg (by omega)).symm
  frame := rfl

/-- What a slide has not passed it has not changed. -/
theorem Slides.slotOf_eq {s t : State} (h : Slides s t) {q : Nat} (hq : t.eng.base.toNat ≤ q) :
    slotOf t q = slotOf s q := by
  rw [h.slots, if_neg (by omega)]

theorem Slides.endSeq {s t : State} (h : Slides s t) : t.eng.endSeq = s.eng.endSeq := by
  rw [h.frame]

theorem Slides.trans {s t u : State} (h : Slides s t) (h' : Slides t u) : Slides s u where
  low := h.low.trans h'.low
  high := h.endSeq ▸ h'.high
  passed := fun q hlow hhigh => by
    by_cases hq : q < t.eng.base.toNat
    case pos => exact h.passed q hlow hq
    case neg =>
      rw [← h.slotOf_eq (not_lt.1 hq)]
      exact h'.passed q (not_lt.1 hq) hhigh
  slots := fun q => by
    have hlow := h.low
    have hhigh := h'.low
    rw [h'.slots, h.slots]
    grind
  frame := by rw [h'.frame, h.frame]

/-- One turn of the slide. -/
theorem Slides.turn {s : State}
    (h : s.eng.base.toNat < s.eng.endSeq.toNat ∧ (slotOf s s.eng.base.toNat).acked = true) :
    Slides s { s with eng := { s.eng with
      base := s.eng.base + 1, slots := Slots.write s.eng.slots s.eng.base.toNat Slot.empty } } := by
  obtain ⟨hlt, hacked⟩ := h
  have hbase := toNat_add_one_of_lt hlt
  have hpassed (q : Nat) : s.eng.base.toNat ≤ q ∧ q < (s.eng.base + 1).toNat ↔ q = s.eng.base.toNat := by omega
  refine { low := ?low, high := ?high, passed := fun q hlow hhigh => ?passed, slots := fun q => ?slots, frame := rfl }
  case low => exact hbase ▸ Nat.le_succ _
  case high => exact hbase ▸ hlt
  case passed => rwa [(hpassed q).1 ⟨hlow, hhigh⟩]
  case slots =>
    refine (slotOf_setSlot s s.eng.base.toNat q Slot.empty).trans ?_
    exact if_congr (hpassed q).symm rfl rfl

theorem slideLoop_slides (n : Nat) {s : State} (h : s.eng.base.toNat ≤ s.eng.endSeq.toNat) :
    Slides s (slideLoop n s) := by
  induction n generalizing s with
  | zero => exact Slides.refl h
  | succ n ih =>
    by_cases hturn : s.eng.base.toNat < s.eng.endSeq.toNat ∧ (slotOf s s.eng.base.toNat).acked = true
    case pos =>
      rw [slideLoop_turn n s hturn]
      exact (Slides.turn hturn).trans (ih (Slides.turn hturn).high)
    case neg => rw [slideLoop_stop _ s hturn]; exact Slides.refl h

/-- Settles O44: the slide is a run of turns that ends at the END number or at an unacknowledged packet, whose
entry the slide has not touched. -/
theorem slideStopsAtTheFirstUnacknowledged : Obligations.SlideStopsAtTheFirstUnacknowledged := by
  intro s hle t
  have hslides : Slides s t := slideLoop_slides _ hle
  have hends : t.eng.base.toNat < t.eng.endSeq.toNat → (slotOf t t.eng.base.toNat).acked = false :=
    slideLoop_ends _ le_rfl
  rw [hslides.endSeq, hslides.slotOf_eq le_rfl] at hends
  have hstop : t.eng.base = s.eng.endSeq ∨ (slotOf s t.eng.base.toNat).acked = false :=
    hslides.high.eq_or_lt.imp BitVec.eq_of_toNat_eq hends
  exact ⟨hslides.low, hslides.high, hslides.passed, hstop, hslides.slots, hslides.frame⟩

/-! ## An ACK in ESTABLISHED (R252, R254) -/

theorem slotOf_selectiveMark {r : Option Parsed} {a : Word} (h : validSeq typeAck r = some a) (s : State) (q : Nat) :
    slotOf (selectiveMark r s) q =
      if q = a.toNat ∧ s.eng.base.toNat ≤ q ∧ q < windowEnd s then { slotOf s q with acked := true }
      else slotOf s q := by
  simp only [selectiveMark, h]
  split
  case isTrue hin =>
    rw [slotOf_setSlot]
    by_cases hq : q = a.toNat
    case pos => subst hq; rw [if_pos rfl, if_pos ⟨rfl, hin⟩]
    case neg => rw [if_neg hq, if_neg (fun h => hq h.1)]
  case isFalse hout =>
    refine (if_neg ?_).symm
    rintro ⟨rfl, hin⟩
    exact hout hin

theorem selectiveMark_frame (r : Option Parsed) (s : State) :
    selectiveMark r s = { s with eng := { s.eng with slots := (selectiveMark r s).eng.slots } } := by
  unfold selectiveMark
  repeat' split
  all_goals rfl

/-- Settles O43: the row ends the poll with the frame that holds the ACK. -/
theorem selectiveAckEndsThePoll : Obligations.SelectiveAckEndsThePoll := by
  intro s f hrun hrole hmode hest hok wend
  refine ⟨selectiveMark (some (parsedRx typeAck f)) s, slotOf_selectiveMark (validSeq_parsedRx hok) s,
    selectiveMark_frame _ s, ?_⟩
  rw [exec_of_rxOutcome (r := some (parsedRx typeAck f)) rfl, rxEvent_of_sender hrun hrole, rxSender,
    if_pos ⟨hest, hmode⟩, pollFrame, selectiveContinue_eq]
  rfl

/-! ## The START-ACK (R251) -/

theorem exec_rxAck_of_selective_establishing {s : State} {f : RxFrame} (hrun : s.eng.running = true)
    (hrole : s.cfg.role = .sender) (hmode : s.cfg.mode = .selective) (hest : s.eng.hs = .establishing)
    (hok : (parsedRx typeAck f).ok = true) :
    exec (.rxAck f) s = .next (if f.seq = 0 then
      selectiveContinue { s with eng := { s.eng with hs := .established, base := 0 } } else s) := by
  have hphase : ¬(s.eng.hs = .established ∧ s.cfg.mode = .selective) := by simp [hest]
  rw [exec_of_rxOutcome (r := some (parsedRx typeAck f)) rfl, rxEvent_of_sender hrun hrole,
    rxSender_of_ack (validSeq_parsedRx hok) hphase, senderAck, hest]
  simp only [senderStartAck, selectiveStart, startAck, origin, hmode]

/-- Where the tables are empty no packet of the window is left out. -/
theorem sendPass_of_empty {s : State} (hempty : ∀ q, slotOf s q = Slot.empty) (hbase : s.eng.base = 0) :
    (∀ q, slotOf (sendPass s) q =
      if q < windowEnd s then { acked := false, sent := true, timer := s.now } else Slot.empty) ∧
    sendPass s = { s with
      tx := s.tx ++ (List.range (windowEnd s)).map (dataF s)
      eng := { s.eng with slots := (sendPass s).eng.slots } } := by
  have hdue (q : Nat) : sendDue s q = true := by rw [sendDue, hempty]; rfl
  have hzero : s.eng.base.toNat = 0 := by rw [hbase]; rfl
  constructor
  case left =>
    intro q
    rw [slotOf_sendPass, hempty]
    exact if_congr (by simp [hzero, hdue]) rfl rfl
  case right =>
    have hall : (List.range' s.eng.base.toNat (windowEnd s - s.eng.base.toNat)).filter (sendDue s) =
        List.range (windowEnd s) := by
      rw [List.filter_eq_self.2 fun q _ => hdue q, hzero, Nat.sub_zero, List.range_eq_range']
    rw [← hall]
    exact sendPass_eq s

/-- Settles O40: the first pass starts at BASE 0 with the tables still empty. -/
theorem startAckOpensTheFirstPass : Obligations.StartAckOpensTheFirstPass := by
  intro s f hrun hrole hmode hest hok hempty w
  rw [exec_rxAck_of_selective_establishing hrun hrole hmode hest hok, selectiveContinue_eq]
  refine ⟨fun hother => by rw [if_neg hother], fun hseq hend => ?close, fun hseq hend => ?pass⟩
  case close =>
    rw [if_pos hseq, if_pos hend.symm]
    simp only [closeEntry, emit, hend]
  case pass =>
    rw [if_pos hseq, if_neg (Ne.symm hend)]
    have hwindow : windowEnd { s with eng := { s.eng with hs := .established, base := 0 } } = w := by
      simp [windowEnd, w]
    obtain ⟨hslots, hframe⟩ :=
      sendPass_of_empty (s := { s with eng := { s.eng with hs := .established, base := 0 } }) hempty rfl
    rw [hwindow] at hslots hframe
    refine ⟨_, rfl, hslots, ?_⟩
    rw [hframe]
    rfl

end Sys2Proof.Machine
end

section
/-! The receiver and a valid DATA frame (45_receiver_reorder R280 to R289): the case its number falls in, what each
case does to OUTBUF and the reorder buffer, and the ACK that answers it. -/

namespace Sys2Proof.Machine

/-! ## The frame and its case (R280) -/

theorem exec_rxData_of_established {s : State} (hrun : s.eng.running = true) (hrole : s.cfg.role = .receiver)
    (hest : s.eng.hs = .established) {f : RxFrame} (hok : (parsedRx typeData f).ok = true) :
    exec (.rxData f) s = .next (receiveData f.seq f.payload s) := by
  rw [exec_of_rxOutcome (r := some (parsedRx typeData f)) rfl, rxEvent_established hrun hrole hest,
    if_neg (fun h => absurd h.1 (by decide)), hok]
  rfl

theorem dataCase_expected (s : State) : dataCase s s.eng.expected = .inOrder :=
  if_pos rfl

theorem dataCase_of_below {s : State} {q : Word} (h : q.toNat < s.eng.expected.toNat) : dataCase s q = .behind := by
  have hne : q ≠ s.eng.expected := by rintro rfl; omega
  rw [dataCase, if_neg hne, if_pos h]

theorem dataCase_of_window {s : State} {q : Word} (hlow : s.eng.expected.toNat < q.toNat)
    (hhigh : q.toNat < s.eng.expected.toNat + s.cfg.window.toNat) : dataCase s q = .ahead := by
  have hne : q ≠ s.eng.expected := by rintro rfl; omega
  rw [dataCase, if_neg hne, if_neg (by omega), if_pos hhigh]

/-- With a window of 0 the expected number itself is at the window's end, and still case A. -/
theorem dataCase_of_past {s : State} {q : Word} (hpast : s.eng.expected.toNat + s.cfg.window.toNat ≤ q.toNat)
    (hne : q ≠ s.eng.expected) : dataCase s q = .outOfWindow := by
  rw [dataCase, if_neg hne, if_neg (by omega), if_neg (by omega)]

/-! ## The ACK (R286 to R289) -/

/-- Cases A to C are answered in both modes. -/
theorem ackData_of_ne_outOfWindow {c : DataCase} (hc : c ≠ .outOfWindow) (q : Word) (s : State) :
    ackData c q s = emit (ackF (if s.cfg.mode = .cumulative then s.eng.expected else q)) s := by
  cases hmode : s.cfg.mode with
  | cumulative => simp only [ackData, hmode, if_true]
  | selective =>
    cases c with
    | outOfWindow => exact absurd rfl hc
    | inOrder | ahead | behind => simp [ackData, hmode]

/-- Case D is answered in cumulative mode only. -/
theorem ackData_outOfWindow (q : Word) (s : State) :
    ackData .outOfWindow q s =
      { s with tx := s.tx ++ (if s.cfg.mode = .cumulative then [ackF s.eng.expected] else []) } := by
  cases hmode : s.cfg.mode with
  | cumulative => simp only [ackData, hmode, emit, if_true]
  | selective => simp [ackData, hmode]

/-- Settles O36: the payload of cases C and D goes nowhere, and only the ACK is left. -/
theorem droppedDataIsAnswered : Obligations.DroppedDataIsAnswered := by
  intro s f hrun hrole hest hok
  rw [exec_rxData_of_established hrun hrole hest hok]
  constructor
  case left =>
    intro hbelow
    rw [receiveData, dataCase_of_below hbelow]
    exact congrArg _ (ackData_of_ne_outOfWindow (by decide) f.seq s)
  case right =>
    intro hpast hne
    rw [receiveData, dataCase_of_past hpast hne]
    exact congrArg _ (ackData_outOfWindow f.seq s)

/-! ## Case B (R283) -/

theorem find?_bufferAhead (q : Word) (p : Bytes) (s : State) (k : Nat) :
    Store.find? (bufferAhead q p s).eng.rbuf k =
      if k = q.toNat ∧ Store.find? s.eng.rbuf k = none then some p else Store.find? s.eng.rbuf k := by
  unfold bufferAhead
  split
  case h_1 held hfind =>
    rw [if_neg]
    rintro ⟨rfl, hnone⟩
    cases hfind.symm.trans hnone
  case h_2 hnone =>
    rw [find?_insert]
    exact if_congr ⟨fun hk => ⟨hk, hk ▸ hnone⟩, And.left⟩ rfl rfl

theorem bufferAhead_frame (q : Word) (p : Bytes) (s : State) :
    bufferAhead q p s = { s with eng := { s.eng with rbuf := (bufferAhead q p s).eng.rbuf } } := by
  unfold bufferAhead
  split <;> rfl

/-- Settles O35: the buffer is what `bufferAhead` makes of it, and the ACK leaves the engine alone. -/
theorem aheadDataIsBufferedOnce : Obligations.AheadDataIsBufferedOnce := by
  intro s f hrun hrole hest hok hlow hhigh
  rw [exec_rxData_of_established hrun hrole hest hok, receiveData, dataCase_of_window hlow hhigh]
  refine ⟨_, rfl, fun k => ?buffer, ?frame⟩
  case buffer => rw [ackData_eng, find?_bufferAhead]
  case frame =>
    rw [ackData_eng, ackData_of_ne_outOfWindow (by decide), bufferAhead_frame]
    rfl

/-! ## Case A: the packet and the run after it (R281, R282) -/

theorem Memory.writeBytes_append (p q : Bytes) (m : Memory) (off : Nat) :
    m.writeBytes off (p ++ q) = (m.writeBytes off p).writeBytes (off + p.length) q := by
  induction p generalizing m off with
  | nil => rfl
  | cons v rest ih =>
    rw [List.cons_append, Memory.writeBytes, ih, Memory.writeBytes, List.length_cons, Nat.add_assoc,
      Nat.add_comm 1 rest.length]

/-- The state after the delivery of one payload that fits (R281). -/
def delivered (p : Bytes) (s : State) : State :=
  { s with
    outbuf := s.outbuf.writeBytes s.eng.outLen.toNat p
    eng := { s.eng with outLen := addWord s.eng.outLen p.length, expected := s.eng.expected + 1 } }

@[simp] theorem delivered_rbuf (p : Bytes) (s : State) : (delivered p s).eng.rbuf = s.eng.rbuf := rfl

theorem deliver_of_fits (q : Word) {p : Bytes} {s : State}
    (hfits : s.eng.outLen.toNat + p.length ≤ s.build.outCap) : deliver q p s = .ok (delivered p s) :=
  if_neg (Nat.not_lt.2 hfits)

/-- The `j`th number after the expected one; past 2^32 − 1 comes 0 (R281). -/
def seqPast (s : State) (j : Nat) : Word := s.eng.expected + BitVec.ofNat 32 (1 + j)

theorem delivered_expected_add (p : Bytes) (s : State) (j : Nat) :
    (delivered p s).eng.expected + BitVec.ofNat 32 j = seqPast s j := by
  rw [seqPast, BitVec.ofNat_add, ← BitVec.add_assoc]
  rfl

/-- From `s` to `t` the payload `p` and the buffered run `ps` after it have been delivered: OUTBUF gains their
bytes in order, and the run has left the buffer (R281, R282). -/
structure RunDelivered (s : State) (p : Bytes) (ps : List Bytes) (t : State) : Prop where
  output (a : Nat) : t.outbuf.read a =
    if s.eng.outLen.toNat ≤ a ∧ a < s.eng.outLen.toNat + (p ++ ps.flatten).length then
      (p ++ ps.flatten).getD (a - s.eng.outLen.toNat) 0
    else s.outbuf.read a
  removed : ∀ j, j < ps.length → Store.find? t.eng.rbuf (seqPast s j).toNat = none
  kept : ∀ k, (∀ j, j < ps.length → k ≠ (seqPast s j).toNat) →
    Store.find? t.eng.rbuf k = Store.find? s.eng.rbuf k
  frame : t = { s with
    outbuf := t.outbuf
    eng := { s.eng with
      outLen := BitVec.ofNat 32 (s.eng.outLen.toNat + (p ++ ps.flatten).length),
      expected := seqPast s ps.length, rbuf := t.eng.rbuf } }

/-- After the arriving packet, as many turns of the drain as the run has packets deliver the run, and the drain
goes on from there. -/
theorem drainLoop_delivered (n : Nat) {s : State} {p : Bytes} {ps : List Bytes} (hshort : ps.length ≤ 2 ^ 32)
    (hbuffered : ∀ j, j < ps.length → Store.find? s.eng.rbuf (seqPast s j).toNat = ps[j]?)
    (hlen : s.eng.outLen.toNat + (p ++ ps.flatten).length < 2 ^ 32)
    (hcap : s.eng.outLen.toNat + (p ++ ps.flatten).length ≤ s.build.outCap) :
    ∃ t, drainLoop (ps.length + n) (delivered p s) = drainLoop n t ∧ RunDelivered s p ps t := by
  rw [List.length_append, ← Nat.add_assoc] at hlen hcap
  have houtLen : (delivered p s).eng.outLen.toNat = s.eng.outLen.toNat + p.length := addWord_toNat (by omega)
  obtain ⟨t, hdrain, houtput, hremoved, hkept, hframe⟩ := drainLoop_run ps n (delivered p s) hshort
    (by simpa only [delivered_expected_add, delivered_rbuf] using hbuffered) (by rwa [houtLen]) (by rwa [houtLen])
  simp only [delivered_expected_add, houtLen] at houtput hremoved hkept hframe
  refine ⟨t, hdrain, fun a => ?output, hremoved, hkept, ?frame⟩
  case output =>
    calc t.outbuf.read a
        = ((s.outbuf.writeBytes s.eng.outLen.toNat p).writeBytes
            (s.eng.outLen.toNat + p.length) ps.flatten).read a := by rw [houtput, Memory.read_writeBytes]; rfl
      _ = (s.outbuf.writeBytes s.eng.outLen.toNat (p ++ ps.flatten)).read a := by rw [Memory.writeBytes_append]
      _ = _ := Memory.read_writeBytes _ _ _ _
  case frame =>
    rw [List.length_append, ← Nat.add_assoc]
    exact hframe

/-- A run that ends at a number with no entry is delivered whole, and the drain ends there. -/
theorem drain_delivered {s : State} {p : Bytes} {ps : List Bytes}
    (hbuffered : ∀ j, j < ps.length → Store.find? s.eng.rbuf (seqPast s j).toNat = ps[j]?)
    (hend : Store.find? s.eng.rbuf (seqPast s ps.length).toNat = none)
    (hlen : s.eng.outLen.toNat + (p ++ ps.flatten).length < 2 ^ 32)
    (hcap : s.eng.outLen.toNat + (p ++ ps.flatten).length ≤ s.build.outCap) :
    ∃ t, drain (delivered p s) = .ok t ∧ RunDelivered s p ps t := by
  have hshort : ps.length < 2 ^ 32 := length_run_lt ps hbuffered hend
  have hfuel : ps.length ≤ s.eng.rbuf.length :=
    length_run_le (e := (delivered p s).eng.expected) ps hshort.le
      (by simpa only [delivered_expected_add, delivered_rbuf] using hbuffered)
  obtain ⟨t, hdrain, hrun⟩ :=
    drainLoop_delivered (s.eng.rbuf.length - ps.length) hshort.le hbuffered hlen hcap
  have hexpected : t.eng.expected = seqPast s ps.length := by rw [hrun.frame]
  have hpast (j : Nat) (hj : j < ps.length) : (seqPast s ps.length).toNat ≠ (seqPast s j).toNat := by
    intro h
    rw [← delivered_expected_add p, ← delivered_expected_add p] at h
    have := seqAfter_inj hshort (by omega) h
    omega
  refine ⟨t, ?_, hrun⟩
  calc drain (delivered p s)
      = drainLoop (ps.length + (s.eng.rbuf.length - ps.length)) (delivered p s) := by
        rw [Nat.add_sub_cancel' hfuel]; rfl
    _ = drainLoop (s.eng.rbuf.length - ps.length) t := hdrain
    _ = .ok t := drainLoop_stop _ t (by rw [hexpected, hrun.kept _ hpast, hend])

/-- Settles O37: the packet and its run are delivered, and the ACK, of the number now expected or of the one that
arrived, follows. -/
theorem inOrderDataDeliversTheRun : Obligations.InOrderDataDeliversTheRun := by
  intro s f ps hrun hrole hest hok hseq past out hbuffered hend hlen hcap
  have hfits : s.eng.outLen.toNat + f.payload.length ≤ s.build.outCap := by
    simp only [out, List.length_append] at hcap
    omega
  obtain ⟨t, hdrain, hdelivered⟩ := drain_delivered (p := f.payload) hbuffered hend hlen hcap
  have hreceive : receiveData f.seq f.payload s = ackData .inOrder f.seq t := by
    rw [receiveData_inOrder (hseq ▸ dataCase_expected s), deliver_of_fits f.seq hfits]
    simp only [hdrain]
  rw [exec_rxData_of_established hrun hrole hest hok, hreceive, ackData_of_ne_outOfWindow (by decide)]
  refine ⟨_, rfl, hdelivered.output, hdelivered.removed, hdelivered.kept, ?frame⟩
  case frame =>
    rw [hdelivered.frame]
    rfl

end Sys2Proof.Machine
end

section
/-! The dispatch of a received frame (46_host_control R321, R322): the decoder and the RX rows together lose nothing
of the parse, and without a running connection nothing is done with it. -/

namespace Sys2Proof.Machine

/-! ## From the bytes to the dispatch -/

theorem parsedRx_of_type {h : Header} {t : Word} (ht : h.type = t) (p : Bytes) :
    parsedRx t { seq := h.seq, length := h.length, csum := h.csum, payload := p } = parsedOf h p := by
  subst ht
  rfl

/-- Whichever row the header's type selects, the row hands the whole parse on. -/
theorem rxOutcome_decodeRxType (h : Header) (p : Bytes) :
    rxOutcome (decodeRxType h p) = some (some (parsedOf h p)) := by
  unfold decodeRxType
  split_ifs with hstart hend hdata hack
  case pos => exact congrArg (some ∘ some) (parsedRx_of_type hstart p)
  case pos => exact congrArg (some ∘ some) (parsedRx_of_type hend p)
  case pos => exact congrArg (some ∘ some) (parsedRx_of_type hdata p)
  case pos => exact congrArg (some ∘ some) (parsedRx_of_type hack p)
  case neg => exact congrArg (some ∘ some) (parsedRx_of_type rfl p)

theorem rxOutcome_decodeRx (raw : Bytes) : rxOutcome (decodeRx raw) = some (rxParse raw) := by
  unfold decodeRx rxParse
  cases decodeFrame (raw.take rxbufBytes) with
  | none => rfl
  | some hp => exact rxOutcome_decodeRxType hp.1 hp.2

/-- Settles O11: the row that the bytes decode to carries their parse. -/
theorem arrivingFrameRunsItsParse : Obligations.ArrivingFrameRunsItsParse := by
  intro raw s
  exact exec_of_rxOutcome (rxOutcome_decodeRx raw) s

/-! ## No connection running -/

theorem rxEvent_of_not_running {s : State} (h : s.eng.running = false) (r : Option Parsed) :
    rxEvent r s = s :=
  if_pos h

theorem exec_rx_of_not_running {s : State} (hrun : s.eng.running = false) {i : Instr} {r : Option Parsed}
    (hrx : rxOutcome i = some r) : exec i s = .next s := by
  rw [exec_of_rxOutcome hrx, rxEvent_of_not_running hrun]

/-- Settles O29: each row is the dispatch of a frame. -/
theorem framesAreIgnoredWhileNotRunning : Obligations.FramesAreIgnoredWhileNotRunning := by
  intro s hrun
  constructor
  case left =>
    intro f
    exact ⟨exec_rx_of_not_running hrun rfl, exec_rx_of_not_running hrun rfl, exec_rx_of_not_running hrun rfl,
      exec_rx_of_not_running hrun rfl⟩
  case right =>
    intro g
    cases g with
    | typed type f => exact exec_rx_of_not_running hrun rfl
    | noHeader raw => exact exec_rx_of_not_running hrun rfl

end Sys2Proof.Machine
end

section
/-! The register map (10_state R31, 46_host_control R316, R317): the words of CTRL, STATUS and IRQ_EN as sums of their
fields, what each index reads, and what a write to it does. -/

namespace Sys2Proof.Machine

/-! ## Words packed from fields (R316) -/

theorem flagWord_toNat (b : Bool) : (flagWord b).toNat = if b then 1 else 0 := by
  cases b <;> rfl

/-- A field above `n` bits of lower fields adds its shifted value. -/
theorem toNat_or_shiftLeft {low field : Word} {n : Nat} (hlow : low.toNat < 2 ^ n)
    (hfield : field.toNat * 2 ^ n < 2 ^ 32) :
    (low ||| field <<< n).toNat = low.toNat + field.toNat * 2 ^ n := by
  rw [BitVec.toNat_or, BitVec.toNat_shiftLeft, Nat.shiftLeft_eq, Nat.mod_eq_of_lt hfield, ← Nat.shiftLeft_eq,
    Nat.or_comm, ← Nat.shiftLeft_add_eq_or_of_lt hlow, Nat.add_comm, Nat.shiftLeft_eq]

theorem flagWord_toNat_le (b : Bool) : (flagWord b).toNat ≤ 1 := by
  cases b <;> decide

theorem Hs.code_toNat_lt (h : Hs) : h.code.toNat < 8 := by
  cases h <;> decide

theorem ErrCode.code_toNat_lt (c : ErrCode) : c.code.toNat < 16 := by
  cases c <;> decide

theorem ctrlWord_toNat (c : Cfg) :
    (ctrlWord c).toNat =
      (flagWord c.role.code).toNat + (flagWord c.mode.code).toNat * 2 + (flagWord c.verifyStart).toNat * 4 := by
  have hrole := flagWord_toNat_le c.role.code
  have hmode := flagWord_toNat_le c.mode.code
  have hverify := flagWord_toNat_le c.verifyStart
  have hlow := toNat_or_shiftLeft (n := 1) (show (flagWord c.role.code).toNat < 2 by omega)
    (show (flagWord c.mode.code).toNat * 2 < 2 ^ 32 by omega)
  rw [ctrlWord, toNat_or_shiftLeft (by omega) (by omega), hlow]
  rfl

theorem irqEnWord_toNat (i : IrqEn) :
    (irqEnWord i).toNat = (flagWord i.doneIe).toNat + (flagWord i.errIe).toNat * 2 := by
  have hdone := flagWord_toNat_le i.doneIe
  have herr := flagWord_toNat_le i.errIe
  exact toNat_or_shiftLeft (n := 1) (by omega) (by omega)

theorem statusWord_toNat (e : Engine) :
    (statusWord e).toNat = e.hs.code.toNat + (flagWord e.running).toNat * 8 + (flagWord e.done).toNat * 16 +
      (flagWord e.fault).toNat * 32 + e.err.code.toNat * 256 := by
  have hhs := e.hs.code_toNat_lt
  have hrunning := flagWord_toNat_le e.running
  have hdone := flagWord_toNat_le e.done
  have hfault := flagWord_toNat_le e.fault
  have herr := e.err.code_toNat_lt
  have hbit3 := toNat_or_shiftLeft (n := 3) (low := e.hs.code) (field := flagWord e.running) (by omega) (by omega)
  have hbit4 := toNat_or_shiftLeft (n := 4) (low := e.hs.code ||| flagWord e.running <<< 3)
    (field := flagWord e.done) (by omega) (by omega)
  have hbit5 := toNat_or_shiftLeft (n := 5)
    (low := e.hs.code ||| flagWord e.running <<< 3 ||| flagWord e.done <<< 4)
    (field := flagWord e.fault) (by omega) (by omega)
  rw [statusWord, toNat_or_shiftLeft (by omega) (by omega), hbit5, hbit4, hbit3]
  rfl

/-! ## Reads (R316) -/

theorem readReg_of_reserved (s : State) {i : BitVec 8} (h : 0x1C ≤ i.toNat) : readReg s i = 0 := by
  unfold readReg
  split
  case h_28 => rfl
  all_goals omega

theorem readReg_ctrl_toNat (s : State) :
    (readReg s 0x01).toNat = (if s.cfg.verifyStart then 4 else 0) +
      (if s.cfg.mode = .selective then 2 else 0) + (if s.cfg.role = .receiver then 1 else 0) := by
  have hmode : (flagWord s.cfg.mode.code).toNat = if s.cfg.mode = .selective then 1 else 0 := by
    cases s.cfg.mode <;> rfl
  have hrole : (flagWord s.cfg.role.code).toNat = if s.cfg.role = .receiver then 1 else 0 := by
    cases s.cfg.role <;> rfl
  rw [show readReg s 0x01 = ctrlWord s.cfg from rfl, ctrlWord_toNat, hmode, hrole, flagWord_toNat]
  split_ifs <;> rfl

theorem readReg_status_toNat (s : State) :
    (readReg s 0x08).toNat = s.eng.hs.code.toNat + (if s.eng.running then 8 else 0) +
      (if s.eng.done then 16 else 0) + (if s.eng.fault then 32 else 0) + 256 * s.eng.err.code.toNat := by
  rw [show readReg s 0x08 = statusWord s.eng from rfl, statusWord_toNat]
  simp only [flagWord_toNat, ite_mul, one_mul, zero_mul, Nat.mul_comm]

theorem readReg_irqEn_toNat (s : State) :
    (readReg s 0x0A).toNat = (if s.irqEn.errIe then 2 else 0) + (if s.irqEn.doneIe then 1 else 0) := by
  rw [show readReg s 0x0A = irqEnWord s.irqEn from rfl, irqEnWord_toNat]
  simp only [flagWord_toNat, ite_mul, one_mul, zero_mul, Nat.add_comm]

theorem readReg_csumResult_toNat (s : State) : (readReg s 0x1B).toNat = s.codec.csumResult.toNat :=
  BitVec.toNat_setWidth_of_le (by decide)

/-- Settles O25, index by index. -/
theorem registerReadReturnsTheMap : Obligations.RegisterReadReturnsTheMap := by
  intro s
  exact ⟨fun _ => rfl, rfl, readReg_ctrl_toNat s, rfl, rfl, rfl, rfl, rfl, rfl, readReg_status_toNat s, rfl,
    readReg_irqEn_toNat s, rfl, rfl, rfl, rfl, rfl, rfl, rfl, rfl, rfl, rfl, rfl, rfl, rfl, rfl, rfl,
    flagWord_toNat _, readReg_csumResult_toNat s, fun _ => readReg_of_reserved s⟩

/-! ## Writes (R317) -/

theorem Role.ofCode_eq (b : Bool) : Role.ofCode b = if b then .receiver else .sender := by
  cases b <;> rfl

theorem Mode.ofCode_eq (b : Bool) : Mode.ofCode b = if b then .selective else .cumulative := by
  cases b <;> rfl

/-- The indexes that a write reaches: the configuration, CMD, IRQ_EN and the F registers (R317). -/
abbrev writableIndexes : List (BitVec 8) :=
  [0x01, 0x02, 0x03, 0x04, 0x05, 0x06, 0x07, 0x0A, 0x14, 0x15, 0x16, 0x17, 0x18]

theorem writeReg_of_not_writable (s : State) {i : BitVec 8} (h : i ∉ writableIndexes) (v : Word) :
    writeReg s i v = s := by
  simp only [writableIndexes, List.mem_cons, List.not_mem_nil, or_false, not_or, ← BitVec.toNat_inj,
    BitVec.reduceToNat] at h
  unfold writeReg
  split
  case h_13 => rfl
  all_goals omega

/-- A write to CMD executes bits 7:0 (46_host_control R311). -/
theorem exec_regWr_cmd_opcode (v : Word) (s : State) :
    exec (.regWr cmdIndex v) s = exec (decodeOpcode (v.extractLsb' 0 8)) s := by
  rw [exec_regWr_cmd, decodeCommand, BitVec.setWidth_eq_extractLsb' (by decide)]

theorem exec_regWr_ctrl (s : State) (v : Word) :
    exec (.regWr 0x01 v) s = .next (writeCfg s { s.cfg with
      role := if v.getLsbD 0 then .receiver else .sender
      mode := if v.getLsbD 1 then .selective else .cumulative
      verifyStart := v.getLsbD 2 }) := by
  rw [← Role.ofCode_eq, ← Mode.ofCode_eq]
  rfl

/-- Settles O26, index by index; the indexes left over drop the write. -/
theorem registerWriteFollowsTheMap : Obligations.RegisterWriteFollowsTheMap := by
  intro s v
  refine ⟨exec_regWr_ctrl s v, rfl, rfl, rfl, rfl, rfl, exec_regWr_cmd_opcode v s, rfl, rfl, rfl, rfl, rfl, rfl,
    ?dropped⟩
  case dropped =>
    intro i hi
    have hcmd : i ≠ cmdIndex := by
      rintro rfl
      exact hi (by decide)
    rw [exec_regWr_of_ne_cmd hcmd, writeReg_of_not_writable s hi]

end Sys2Proof.Machine
end

section
/-! The control commands (46_host_control R310 to R315): NOP, ERR_CLR, SOFT_RESET and the reserved opcodes; RUN's
refusals in their order, and what its start makes of the state. -/

namespace Sys2Proof.Machine

/-! ## NOP, SOFT_RESET, ERR_CLR and the reserved opcodes -/

/-- Settles O15: NOP's meaning is the state it finds. -/
theorem nopChangesNothing : Obligations.NopChangesNothing :=
  fun _ => rfl

/-- Settles O14: the engine written out in the statement is the reset engine. -/
theorem softResetClearsTheEngineOnly : Obligations.SoftResetClearsTheEngineOnly :=
  fun _ => rfl

/-- Bits 11:8 of STATUS are ERR's and no other field's (10_state R40). -/
theorem statusWord_mask (e : Engine) :
    statusWord e &&& 0xFFFFF0FF = statusWord { e with err := .none, errInfo := 0 } := by
  have hhs : e.hs.code &&& (0xFFFFF0FF : Word) = e.hs.code := by cases e.hs <;> rfl
  have hrunning : (flagWord e.running <<< 3) &&& (0xFFFFF0FF : Word) = flagWord e.running <<< 3 := by
    cases e.running <;> rfl
  have hdone : (flagWord e.done <<< 4) &&& (0xFFFFF0FF : Word) = flagWord e.done <<< 4 := by cases e.done <;> rfl
  have hfault : (flagWord e.fault <<< 5) &&& (0xFFFFF0FF : Word) = flagWord e.fault <<< 5 := by cases e.fault <;> rfl
  have herr : (e.err.code <<< 8) &&& (0xFFFFF0FF : Word) = ErrCode.none.code <<< 8 := by cases e.err <;> rfl
  simp only [statusWord, BitVec.and_or_distrib_right]
  rw [hhs, hrunning, hdone, hfault, herr]

/-- Settles O16: the cleared record is the ERR field of STATUS and the whole of ERR_INFO. -/
theorem errClrClearsTheRecord : Obligations.ErrClrClearsTheRecord := by
  intro s
  exact ⟨clearError s, rfl, rfl, (statusWord_mask s.eng).symm, rfl⟩

/-- Settles O17: a write to CMD with a reserved opcode runs the same row. -/
theorem reservedOpcodeRecordsBadCmd : Obligations.ReservedOpcodeRecordsBadCmd := by
  intro op s hop
  refine ⟨rfl, ?write⟩
  case write =>
    intro v hv
    rw [exec_regWr_cmd_opcode, hv, decodeOpcode_of_not_mem hop]
    rfl

/-! ## RUN's checks (R312) -/

/-- The checks of the configuration, one below the other. -/
theorem configError_eq (s : State) :
    configError s =
      if s.cfg.window.toNat < 1 ∨ s.build.wMax < s.cfg.window.toNat then some 0x02
      else if s.cfg.role = .sender ∧ (s.cfg.chunk.toNat < 1 ∨ 1456 < s.cfg.chunk.toNat) then some 0x03
      else if s.cfg.role = .sender ∧ s.cfg.rto.toNat < 1 then some 0x04
      else if s.cfg.role = .sender ∧ s.cfg.mode = .selective ∧ s.cfg.poll.toNat < 1 then some 0x05
      else if s.cfg.role = .sender ∧ s.build.inCap < s.cfg.inLen.toNat then some 0x06
      else none := by
  unfold configError
  cases s.cfg.role with
  | sender => simp only [true_and]
  | receiver => simp only [reduceCtorEq, false_and, if_false]

/-- The configurations that the invariant calls legal pass RUN's checks. -/
theorem configError_of_configLegal {s : State} (h : ConfigLegal s) : configError s = none := by
  obtain ⟨hwindow, hchunk, hrto, hpoll, hinLen⟩ := h
  simp only [maxPayload] at hchunk
  rw [configError_eq, if_neg (by omega), if_neg, if_neg, if_neg, if_neg]
  · exact fun ⟨hrole, hlt⟩ => Nat.not_lt.2 (hinLen hrole) hlt
  · exact fun ⟨hrole, hmode, hlt⟩ => Nat.not_lt.2 (hpoll hrole hmode) hlt
  · exact fun ⟨hrole, hlt⟩ => Nat.not_lt.2 (hrto hrole) hlt
  · rintro ⟨hrole, hlt⟩
    have := hchunk hrole
    omega

/-- What RUN answers once the block is neither faulted nor running. -/
def runChecked (s : State) : Option Word → Host.Outcome State Fault Refusal
  | some i => .next (raiseError .badConfig i s)
  | none => .next (roleStart (initConnection s))

theorem execRun_eq (s : State) :
    execRun s =
      if s.eng.fault = true then .next (raiseError .faulted 0 s)
      else if s.eng.running = true then .next (raiseError .busy 0 s)
      else runChecked s (configError s) := by
  unfold execRun
  cases configError s <;> rfl

theorem execRun_of_running {s : State} (h : s.eng.running = true) :
    ∃ c, execRun s = .next (raiseError c 0 s) := by
  rw [execRun_eq, if_pos h]
  split
  case isTrue => exact ⟨_, rfl⟩
  case isFalse => exact ⟨_, rfl⟩

theorem execRun_of_configLegal {s : State} (hfault : s.eng.fault = false) (hrun : s.eng.running = false)
    (hlegal : ConfigLegal s) : execRun s = .next (roleStart (initConnection s)) := by
  rw [execRun_eq, if_neg (by simp [hfault]), if_neg (by simp [hrun]), configError_of_configLegal hlegal]
  rfl

/-! ## RUN's start (R312) -/

/-- The sender after RUN: its packets counted (43_sender_cumulative R220), START emitted, ESTABLISHING. -/
def senderStarted (s : State) : State :=
  let o := origin s.cfg.mode
  let n := BitVec.ofNat 32 (packetCount s.cfg)
  { s with
    tx := s.tx ++ [startF]
    eng := { s.eng with
      hs := .establishing, running := true, done := false, total := n, base := o, nextAck := o + 1,
      sentHi := o, endSeq := o + n, waitStart := s.now, pollStart := s.now, slots := [],
      expected := o, rbuf := [], outLen := 0 } }

/-- The receiver after RUN: it listens (42_handshake R200). -/
def receiverStarted (s : State) : State :=
  let o := origin s.cfg.mode
  { s with
    eng := { s.eng with
      hs := .idle, running := true, done := false, total := 0, base := o, nextAck := o + 1,
      sentHi := o, endSeq := 0, waitStart := s.now, pollStart := s.now, slots := [],
      expected := o, rbuf := [], outLen := 0 } }

theorem roleStart_of_sender {s : State} (h : s.cfg.role = .sender) :
    roleStart (initConnection s) = senderStarted s := by
  have hrole : (initConnection s).cfg.role = .sender := h
  rw [roleStart, hrole]
  rfl

theorem roleStart_of_receiver {s : State} (h : s.cfg.role = .receiver) :
    roleStart (initConnection s) = receiverStarted s := by
  have hrole : (initConnection s).cfg.role = .receiver := h
  rw [roleStart, hrole]
  rfl

theorem runChecked_none (s : State) :
    runChecked s none =
      if s.cfg.role = .sender then .next (senderStarted s) else .next (receiverStarted s) := by
  rw [runChecked]
  cases hrole : s.cfg.role with
  | sender => rw [roleStart_of_sender hrole, if_pos rfl]
  | receiver => rw [roleStart_of_receiver hrole, if_neg (by decide)]

/-- START_F on the wire (30_encoding R115): no field but the checksum. -/
theorem startF_eq : startF = [0, 0, 0, 0, 0, 0, 0, 0, 0, 0, 0, 0, 0, 0, 0xFF, 0xFF] := by
  decide

theorem origin_eq (m : Mode) : origin m = if m = .cumulative then 1 else 0 := by
  cases m <;> rfl

/-- Settles O18: RUN's checks stand in the statement's order, and the start is the role's. -/
theorem runChecksThenStarts : Obligations.RunChecksThenStarts := by
  intro s o n refuse
  rw [show exec .run s = execRun s from rfl, execRun_eq, configError_eq]
  simp only [apply_ite (runChecked s), runChecked_none, senderStarted, receiverStarted, origin_eq, startF_eq]
  rfl

end Sys2Proof.Machine
end

section
/-! TICK and its one timer rule (46_host_control R320), and what the events of the host, the codec and the wire leave
alone: the codec commands keep to the codec (R311), ticks and frames keep to the engine, and a running connection's
configuration and input stay (R313). -/

namespace Sys2Proof.Machine

/-! ## TICK (R320) -/

/-- The state a TICK's timer rule sees: NOW counted on. -/
def ticked (s : State) : State := { s with now := s.now + 1 }

theorem exec_tick_of_sender {s : State} (hrun : s.eng.running = true) (hrole : s.cfg.role = .sender) :
    exec .tick s = .next (senderTimer (ticked s)) :=
  congrArg _ (if_pos ⟨hrun, hrole⟩)

theorem exec_tick_of_no_sender {s : State} (h : s.eng.running = false ∨ s.cfg.role = .receiver) :
    exec .tick s = .next (ticked s) := by
  refine congrArg _ (if_neg ?_)
  rintro ⟨hrun, hrole⟩
  rcases h with h | h
  · exact Bool.false_ne_true (h.symm.trans hrun)
  · cases h.symm.trans hrole

/-- The pass and the slide leave NOW, so the next poll starts at the TICK's own time (44_sender_selective R257). -/
theorem pollTimeout_eq (s : State) :
    pollTimeout s =
      if s.cfg.poll.toNat ≤ (s.now - s.eng.pollStart).toNat then
        let v := sendPass (selectiveSlide s)
        { v with eng := { v.eng with pollStart := s.now } }
      else s := by
  have hnow : (sendPass (selectiveSlide s)).now = s.now :=
    ((slideLoop_sendsOnly _ s).trans (sendLoop_sendsOnly _ _ _)).now
  unfold pollTimeout
  dsimp only
  rw [hnow]
  rfl

theorem senderTimer_of_establishing {s : State} (h : s.eng.hs = .establishing) :
    senderTimer s = startRetry s := by
  rw [senderTimer, h]

theorem senderTimer_of_cumulative {s : State} (h : s.eng.hs = .established) (hmode : s.cfg.mode = .cumulative) :
    senderTimer s = cumulativeTimeout s := by
  simp only [senderTimer, h, hmode]

theorem senderTimer_of_selective {s : State} (h : s.eng.hs = .established) (hmode : s.cfg.mode = .selective) :
    senderTimer s = pollTimeout s := by
  simp only [senderTimer, h, hmode]

theorem senderTimer_of_closing {s : State} (h : s.eng.hs = .closing) : senderTimer s = endRetry s := by
  rw [senderTimer, h]

theorem senderTimer_of_not_open {s : State} (h : s.eng.hs = .idle ∨ s.eng.hs = .closed) : senderTimer s = s := by
  rcases h with h | h <;> rw [senderTimer, h]

/-- Settles O47: the timer rule of each handshake state and mode is the one the statement writes out. -/
theorem tickRunsOneTimerRule : Obligations.TickRunsOneTimerRule := by
  intro s n u
  by_cases hno : s.eng.running = false ∨ s.cfg.role = .receiver
  case pos =>
    rw [if_pos hno]
    exact exec_tick_of_no_sender hno
  case neg =>
    have hrun : s.eng.running = true := by simpa using fun h => hno (.inl h)
    have hrole : s.cfg.role = .sender := by
      cases hr : s.cfg.role with
      | sender => rfl
      | receiver => exact absurd (.inr hr) hno
    rw [if_neg hno, exec_tick_of_sender hrun hrole]
    refine congrArg _ ?_
    split
    case h_1 hhs => exact senderTimer_of_establishing (s := ticked s) hhs
    case h_2 hhs =>
      split
      case h_1 hmode => exact senderTimer_of_cumulative (s := ticked s) hhs hmode
      case h_2 hmode => exact (senderTimer_of_selective (s := ticked s) hhs hmode).trans (pollTimeout_eq (ticked s))
    case h_3 hhs => exact senderTimer_of_closing (s := ticked s) hhs
    case h_4 hhs => exact senderTimer_of_not_open (s := ticked s) (.inl hhs)
    case h_5 hhs => exact senderTimer_of_not_open (s := ticked s) (.inr hhs)

/-! ## What the codec commands, TICK and a frame leave alone (R311; 10_state R46) -/

/-- A codec command writes FBUF, the codec registers and the error record. -/
theorem codecCommand_frame {i : Instr} {s t : State} (hi : i ∈ [Instr.csum, .encode, .decode, .verify])
    (h : exec i s = .next t) :
    t = { s with codec := t.codec, fbuf := t.fbuf,
                 eng := { s.eng with err := t.eng.err, errInfo := t.eng.errInfo } } := by
  simp only [List.mem_cons, List.not_mem_nil, or_false] at hi
  rcases hi with rfl | rfl | rfl | rfl
  all_goals
    simp only [exec, execCsum, execEncode, execDecode, execVerify] at h
    split at h <;> (cases h; rfl)

theorem ReceivesOnly.host {s t : State} (h : ReceivesOnly s t) :
    t.codec = s.codec ∧ t.fbuf = s.fbuf ∧ t.inbuf = s.inbuf ∧ t.cfg = s.cfg ∧ t.irqEn = s.irqEn ∧
      t.rdata = s.rdata := by
  rw [h]
  exact ⟨rfl, rfl, rfl, rfl, rfl, rfl⟩

theorem exec_tick_receivesOnly {s t : State} (h : exec .tick s = .next t) : ReceivesOnly (ticked s) t := by
  cases h
  split
  case isTrue => exact (senderTimer_sendsOnly _).receives
  case isFalse => rfl

/-- Settles O24: the codec commands by their frame; TICK and a frame as operations of the engine. -/
theorem codecAndEngineShareNoState : Obligations.CodecAndEngineShareNoState := by
  constructor
  case left =>
    intro i s t hi h
    exact codecCommand_frame hi h
  case right =>
    rintro r s t (htick | rfl)
    · exact (exec_tick_receivesOnly htick).host
    · exact (rxEvent_receivesOnly r s).host

/-! ## A running connection (R313, 10_state R48) -/

theorem writeReg_inbuf (s : State) (i : BitVec 8) (v : Word) : (writeReg s i v).inbuf = s.inbuf := by
  unfold writeReg writeCfg
  repeat' split
  all_goals rfl

/-- While a connection runs, a buffer write reaches FBUF at most. -/
theorem writeBuf_inbuf_eq_of_running {s : State} (hrun : s.eng.running = true) (code : BitVec 2) (off : Nat)
    (v : Byte) : (writeBuf s code off v).inbuf = s.inbuf := by
  rcases bufCode_cases code with rfl | rfl | rfl | rfl
  · rw [writeBuf_inbuf_of_running hrun]
  · rfl
  · exact (apply_ite State.inbuf (off < fbufBytes) _ s).trans (ite_self _)
  · rfl

/-- The step leaves what the sender reads its packets from (20_memory R95). -/
def KeepsInput (s t : State) : Prop := t.cfg = s.cfg ∧ t.inbuf = s.inbuf

theorem ReceivesOnly.keepsInput {s t : State} (h : ReceivesOnly s t) : KeepsInput s t := by
  obtain ⟨_, _, hinbuf, hcfg, _, _⟩ := h.host
  exact ⟨hcfg, hinbuf⟩

/-- Every instruction but RESET and the register write that stands for a command (log 12). -/
theorem exec_keepsInput {i : Instr} {s t : State} (hrun : s.eng.running = true) (hreset : i ≠ .reset)
    (hcmd : ∀ v, i ≠ .regWr cmdIndex v) (h : exec i s = .next t) : KeepsInput s t := by
  cases i with
  | reset => exact absurd rfl hreset
  | run =>
    obtain ⟨c, hrefused⟩ := execRun_of_running hrun
    cases hrefused.symm.trans h
    exact ⟨rfl, rfl⟩
  | csum | encode | decode | verify =>
    rw [codecCommand_frame (by simp) h]
    exact ⟨rfl, rfl⟩
  | regWr index data =>
    have hne : index ≠ cmdIndex := fun hi => hcmd data (hi ▸ rfl)
    rw [exec_regWr_of_ne_cmd hne] at h
    cases h
    exact ⟨(writeReg_leavesConnection s index data).locked hrun, writeReg_inbuf s index data⟩
  | bufWr code offset data =>
    cases h
    exact ⟨by rw [writeBuf_frame], writeBuf_inbuf_eq_of_running hrun code _ data⟩
  | tick => exact (exec_tick_receivesOnly h).keepsInput
  | rxStart f | rxEnd f | rxData f | rxAck f => cases h; exact (rxEvent_receivesOnly _ s).keepsInput
  | rxReserved f => cases f <;> (cases h; exact (rxEvent_receivesOnly _ s).keepsInput)
  | nop | softReset | errClr | badCmd _ | regRd _ | bufRd _ _ | txStart | txEnd _ | txData _ _ | txAck _ =>
    cases h
    exact ⟨rfl, rfl⟩

/-- Settles O49: from the instruction, or from the command that a write to CMD stands for. -/
theorem runningConnectionKeepsItsConfiguration : Obligations.RunningConnectionKeepsItsConfiguration := by
  intro i s t hrun hreset h
  by_cases hcmd : ∃ v, i = .regWr cmdIndex v
  case pos =>
    obtain ⟨v, rfl⟩ := hcmd
    obtain ⟨_, hnoReset, hnoRegWr⟩ := decodeCommand_ne v
    exact exec_keepsInput hrun hnoReset (hnoRegWr cmdIndex) ((exec_regWr_cmd v s).symm.trans h)
  case neg => exact exec_keepsInput hrun hreset (fun v hv => hcmd ⟨v, hv⟩) h

end Sys2Proof.Machine
end

section
/-! The start of a transfer (46_host_control R325, 60_exceptions R362): RUN at the receiver, then at the sender. -/

namespace Sys2Proof.Machine

/-! ## RUN at one block -/

/-- The word 1 written to CMD, as an event of the system: the block starts its role, and the platform takes what
it emitted (log 15). -/
theorem instanceEvent_run {s : State} (hfault : s.eng.fault = false) (hrun : s.eng.running = false)
    (hlegal : ConfigLegal s) :
    instanceEvent (.reg true 0x07 1) s =
      ({ roleStart (initConnection s) with tx := [] }, (roleStart (initConnection s)).tx) := by
  have hstep : step { s with inputs := [.reg true 0x07 1] } =
      .next (roleStart (initConnection { s with inputs := [] })) := by
    rw [step_of_inputs_cons rfl]
    exact execRun_of_configLegal hfault hrun (hlegal.congr rfl rfl)
  have hqueue : roleStart (initConnection { s with inputs := [] }) =
      { roleStart (initConnection s) with inputs := [] } := by
    cases hrole : s.cfg.role with
    | sender => rw [roleStart_of_sender hrole, roleStart_of_sender (s := { s with inputs := [] }) hrole]; rfl
    | receiver => rw [roleStart_of_receiver hrole, roleStart_of_receiver (s := { s with inputs := [] }) hrole]; rfl
  have hinputs : s.inputs = (roleStart (initConnection s)).inputs := by
    obtain ⟨hframe, _⟩ := roleStart_frame s
    rw [hframe]
  rw [instanceEvent, hstep, hqueue, hinputs]

/-! ## The pair -/

theorem act_event_left {y : System} {e : Input} {t : State} {fs : List Bytes} (he : isFrame e = false)
    (h : instanceEvent e y.left = (t, fs)) :
    y.act (.event .left e) = { y with left := t, toRight := y.toRight ++ fs } := by
  rw [System.act, he, if_neg Bool.false_ne_true, System.eventAt, h]

theorem act_event_right {y : System} {e : Input} {t : State} {fs : List Bytes} (he : isFrame e = false)
    (h : instanceEvent e y.right = (t, fs)) :
    y.act (.event .right e) = { y with right := t, toLeft := y.toLeft ++ fs } := by
  rw [System.act, he, if_neg Bool.false_ne_true, System.eventAt, h]

/-- The sender `a` and the receiver `b` after RUN at both: the START is on its way. -/
def startedPair (a b : State) : System :=
  { left := { senderStarted a with tx := [] }, right := { receiverStarted b with tx := [] },
    toLeft := [], toRight := [startF] }

theorem run_eq_startedPair {a b : State} (hsender : a.cfg.role = .sender) (hreceiver : b.cfg.role = .receiver)
    (hlegalA : ConfigLegal a) (hlegalB : ConfigLegal b) (hrunA : a.eng.running = false)
    (hrunB : b.eng.running = false) (hfaultA : a.eng.fault = false) (hfaultB : b.eng.fault = false)
    (htxA : a.tx = []) (htxB : b.tx = []) :
    System.run { left := a, right := b, toLeft := [], toRight := [] }
      [.event .right (.reg true 0x07 1), .event .left (.reg true 0x07 1)] = startedPair a b := by
  have hleft := instanceEvent_run hfaultA hrunA hlegalA
  have hright := instanceEvent_run hfaultB hrunB hlegalB
  have hsent : (senderStarted a).tx = [startF] := congrArg (· ++ [startF]) htxA
  have hquiet : (receiverStarted b).tx = [] := htxB
  rw [roleStart_of_sender hsender, hsent] at hleft
  rw [roleStart_of_receiver hreceiver, hquiet] at hright
  rw [System.run, act_event_right rfl hright, System.run, act_event_left rfl hleft]
  rfl

theorem senderStarted_senderOk {s : State} (hb : s.build.Legal) (hlegal : ConfigLegal s)
    (hrole : s.cfg.role = .sender) : SenderOk (senderStarted s) := by
  rw [← roleStart_of_sender hrole]
  exact roleStart_sender_senderOk hb hlegal hrole

/-- Nothing is delivered or buffered yet, both ends stand at ORIGIN, and of the sender's frames only START is in
flight. -/
theorem startedPair_transfer {a b : State} (hbuild : a.build.Legal) (hflagsA : FlagsOk a) (hflagsB : FlagsOk b)
    (hsender : a.cfg.role = .sender) (hreceiver : b.cfg.role = .receiver) (hmode : a.cfg.mode = b.cfg.mode)
    (hlegal : ConfigLegal a) (hfaultA : a.eng.fault = false) (hfaultB : b.eng.fault = false) :
    Transfer (startedPair a b) := by
  have hok : SenderOk (startedPair a b).left :=
    (senderStarted_senderOk hbuild hlegal hsender).congr rfl rfl
  have hexpected : (startedPair a b).right.eng.expected = origin a.cfg.mode := congrArg origin hmode.symm
  exact {
    senderRole := hsender
    receiverRole := hreceiver
    sameMode := hmode
    leftBuild := hbuild
    leftConfig := hlegal.congr rfl rfl
    leftEndSeq := hok.endSeq
    leftNumbers := fun _ => hok
    leftFlags := flagsOk_of_running rfl hfaultA (fun _ => .inl rfl)
      (fun h => nomatch hsender.symm.trans h) hflagsA.noErrNoInfo
    rightFlags := flagsOk_of_running rfl hfaultB (fun h => nomatch hreceiver.symm.trans h)
      (fun _ => .inl rfl) hflagsB.noErrNoInfo
    leftTaken := rfl
    rightTaken := rfl
    inFlight := by
      intro f hf
      exact .inl (List.mem_singleton.1 hf)
    replies := fun _ hf => absurd hf List.not_mem_nil
    expectedLow := by rw [hexpected]; exact le_rfl
    expectedHigh := by
      rw [hexpected, hok.endSeq]
      exact Nat.le_add_right _ _
    buffered := fun _ _ he => absurd he List.not_mem_nil
    bufferedOnce := fun _ => .nil
    delivered := by
      rw [hexpected]
      show 0 = min a.cfg.inLen.toNat (((origin a.cfg.mode).toNat - (origin a.cfg.mode).toNat) * a.cfg.chunk.toNat)
      rw [Nat.sub_self, Nat.zero_mul, Nat.min_zero]
    output := fun _ hi => absurd hi (Nat.not_lt_zero _)
    complete := fun hdone => absurd hdone Bool.false_ne_true }

/-- Settles O58: the two RUNs give the started pair, which is a transfer. -/
theorem runStartsATransfer : Obligations.RunStartsATransfer := by
  intro a b hbuild hflagsA hflagsB hsender hreceiver hmode hlegalA hlegalB hrunA hrunB hfaultA hfaultB htxA htxB
  rw [run_eq_startedPair hsender hreceiver hlegalA hlegalB hrunA hrunB hfaultA hfaultB htxA htxB]
  exact startedPair_transfer hbuild hflagsA hflagsB hsender hreceiver hmode hlegalA hfaultA hfaultB

end Sys2Proof.Machine
end

section
/-! What holds of every event and every state: an event completes (60_exceptions R346), the interrupt output follows
STATUS and IRQ_EN (R350), hardware reset sets every element (70_reset R370), and two instances share no state
(R361). -/

namespace Sys2Proof.Machine

/-! ## Every event completes -/

/-- A register write to CMD answers what its command answers (log 12). -/
theorem exec_completes (i : Instr) (s : State) : ∃ t, exec i s = .next t := by
  by_cases hcmd : ∃ v, i = .regWr cmdIndex v
  case pos =>
    obtain ⟨v, rfl⟩ := hcmd
    obtain ⟨_, _, hnoRegWr⟩ := decodeCommand_ne v
    obtain ⟨t, hnext, _⟩ := exec_acts (hnoRegWr cmdIndex) s
    exact ⟨t, (exec_regWr_cmd v s).trans hnext⟩
  case neg =>
    obtain ⟨t, hnext, _⟩ := exec_acts (fun v hv => hcmd ⟨v, hv⟩) s
    exact ⟨t, hnext⟩

/-- Settles O52: a step is idle, or it runs one instruction. -/
theorem everyEventCompletes : Obligations.EveryEventCompletes := by
  refine ⟨exec_completes, fun s => ?_⟩
  unfold SafeStep
  cases hq : s.inputs with
  | nil => exact ⟨s, step_of_inputs_nil hq⟩
  | cons e rest =>
    rw [step_of_inputs_cons hq]
    exact exec_completes _ _

/-! ## The interrupt output -/

theorem getLsbD_eq_decide (v : Word) (n : Nat) : v.getLsbD n = decide (v.toNat / 2 ^ n % 2 = 1) :=
  Nat.testBit_eq_decide_div_mod_eq

/-- STATUS bit 4 is DONE (10_state R40). -/
theorem readReg_status_done (s : State) : (readReg s 0x08).getLsbD 4 = s.eng.done := by
  have hhs := s.eng.hs.code_toNat_lt
  have hbit : (readReg s 0x08).toNat / 16 % 2 = if s.eng.done then 1 else 0 := by
    rw [readReg_status_toNat]
    split_ifs <;> omega
  rw [getLsbD_eq_decide, show 2 ^ 4 = 16 from rfl, hbit]
  cases s.eng.done <;> rfl

/-- STATUS bits 11:8 are ERR (10_state R40). -/
theorem readReg_status_err (s : State) : (readReg s 0x08).toNat / 256 % 16 = s.eng.err.code.toNat := by
  have hhs := s.eng.hs.code_toNat_lt
  have herr := s.eng.err.code_toNat_lt
  rw [readReg_status_toNat]
  split_ifs <;> omega

theorem readReg_irqEn_bits (s : State) :
    (readReg s 0x0A).getLsbD 0 = s.irqEn.doneIe ∧ (readReg s 0x0A).getLsbD 1 = s.irqEn.errIe := by
  rw [getLsbD_eq_decide, getLsbD_eq_decide, readReg_irqEn_toNat]
  cases s.irqEn.doneIe <;> cases s.irqEn.errIe <;> decide

/-- The code 0 is the code of no error only (60_exceptions R340). -/
theorem ErrCode.code_ne_zero (c : ErrCode) : decide (c.code.toNat ≠ 0) = (c != .none) := by
  cases c <;> rfl

/-- Settles O51: each source of the interrupt is the field that the host reads. -/
theorem interruptFollowsStatus : Obligations.InterruptFollowsStatus := by
  refine ⟨fun s => ?_, rfl⟩
  obtain ⟨hdoneIe, herrIe⟩ := readReg_irqEn_bits s
  rw [readReg_status_done, readReg_status_err, hdoneIe, herrIe, ErrCode.code_ne_zero]
  rfl

/-! ## Hardware reset -/

/-- Settles O13: but for the build parameters and the events to come, the state is the one of 10_state R56. -/
theorem hardwareResetSetsEveryElement : Obligations.HardwareResetSetsEveryElement := fun _ =>
  ⟨_, rfl, fun _ => rfl, rfl, rfl, rfl, rfl, rfl, fun _ => ⟨rfl, rfl, rfl⟩, rfl, rfl, rfl, rfl⟩

/-! ## Two instances -/

theorem eventAt_left_right (y : System) (e : Input) : (y.eventAt .left e).right = y.right := rfl

theorem eventAt_right_left (y : System) (e : Input) : (y.eventAt .right e).left = y.left := rfl

@[simp] theorem setInFlight_left (y : System) (d : Side) (fs : List Bytes) : (y.setInFlight d fs).left = y.left := by
  cases d <;> rfl

@[simp] theorem setInFlight_right (y : System) (d : Side) (fs : List Bytes) :
    (y.setInFlight d fs).right = y.right := by
  cases d <;> rfl

theorem act_event_of_frame {e : Input} (h : isFrame e = true) (y : System) (d : Side) : y.act (.event d e) = y :=
  if_pos h

theorem act_event_of_not_frame {e : Input} (h : isFrame e = false) (y : System) (d : Side) :
    y.act (.event d e) = y.eventAt d e := by
  rw [System.act, h, if_neg Bool.false_ne_true]

/-- The frame at a place in flight, delivered; where there is none, nothing. -/
theorem act_deliver_cases (y : System) (d : Side) (i : Nat) :
    y.act (.deliver d i) = y ∨ ∃ f, (y.inFlight d)[i]? = some f ∧
      y.act (.deliver d i) = (y.setInFlight d ((y.inFlight d).eraseIdx i)).eventAt d (.rx f) := by
  cases hf : (y.inFlight d)[i]? with
  | none => exact .inl (by simp only [System.act, hf])
  | some f => exact .inr ⟨f, rfl, by simp only [System.act, hf]⟩

theorem act_duplicate_cases (y : System) (d : Side) (i : Nat) :
    y.act (.duplicate d i) = y ∨ ∃ f, (y.inFlight d)[i]? = some f ∧
      y.act (.duplicate d i) = y.setInFlight d (y.inFlight d ++ [f]) := by
  cases hf : (y.inFlight d)[i]? with
  | none => exact .inl (by simp only [System.act, hf])
  | some f => exact .inr ⟨f, rfl, by simp only [System.act, hf]⟩

theorem act_reorder_cases (y : System) (d : Side) (i : Nat) :
    y.act (.reorder d i) = y ∨ ∃ f, (y.inFlight d)[i]? = some f ∧
      y.act (.reorder d i) = y.setInFlight d ((y.inFlight d).eraseIdx i ++ [f]) := by
  cases hf : (y.inFlight d)[i]? with
  | none => exact .inl (by simp only [System.act, hf])
  | some f => exact .inr ⟨f, rfl, by simp only [System.act, hf]⟩

/-- The channel's own choices change the frames in flight one way, and nothing else (R360). -/
theorem act_channel {y : System} {d : Side} {i : Nat} {b : Bytes} {a : SysAction}
    (h : a ∈ [SysAction.drop d i, .duplicate d i, .reorder d i, .corrupt d i b]) :
    y.act a = y ∨ ∃ fs, y.act a = y.setInFlight d fs := by
  simp only [List.mem_cons, List.not_mem_nil, or_false] at h
  rcases h with rfl | rfl | rfl | rfl
  · exact .inr ⟨_, rfl⟩
  · exact (act_duplicate_cases y d i).imp_right fun ⟨_, _, e⟩ => ⟨_, e⟩
  · exact (act_reorder_cases y d i).imp_right fun ⟨_, _, e⟩ => ⟨_, e⟩
  · exact .inr ⟨_, rfl⟩

/-- Settles O57: an event is at one side only, and the channel has no hold on either. -/
theorem instancesShareNoState : Obligations.InstancesShareNoState := by
  intro y e i b d
  refine ⟨?_, ?_, ?_, ?_, fun a ha => ?_⟩
  · cases he : isFrame e with
    | true => rw [act_event_of_frame he]
    | false => rw [act_event_of_not_frame he, eventAt_left_right]
  · cases he : isFrame e with
    | true => rw [act_event_of_frame he]
    | false => rw [act_event_of_not_frame he, eventAt_right_left]
  · rcases act_deliver_cases y .left i with h | ⟨f, _, h⟩ <;> rw [h]
    rw [eventAt_left_right, setInFlight_right]
  · rcases act_deliver_cases y .right i with h | ⟨f, _, h⟩ <;> rw [h]
    rw [eventAt_right_left, setInFlight_left]
  · rcases act_channel (y := y) ha with h | ⟨fs, h⟩ <;> rw [h]
    · exact ⟨rfl, rfl⟩
    · exact ⟨setInFlight_left y d fs, setInFlight_right y d fs⟩

end Sys2Proof.Machine
end

section
/-! The engine fault of a delivery past OUT_CAP (60_exceptions R343): at the arriving packet, and in the drain after
it. -/

namespace Sys2Proof.Machine

theorem deliver_of_overflow (q : Word) {p : Bytes} {s : State}
    (hover : s.build.outCap < s.eng.outLen.toNat + p.length) :
    deliver q p s = .error (engineFault .outOverflow q s) :=
  if_pos hover

theorem seqPast_toNat_inj {s : State} {i j : Nat} (hi : i < 2 ^ 32) (hj : j < 2 ^ 32)
    (h : (seqPast s i).toNat = (seqPast s j).toNat) : i = j := by
  rw [← delivered_expected_add [], ← delivered_expected_add []] at h
  exact seqAfter_inj hi hj h

/-- A run that fits, with a packet after it that does not: the run is delivered, and the drain ends in the fault at
that packet's number, with the packet still in the buffer. -/
theorem drain_overflows {s : State} {p next : Bytes} {ps : List Bytes} (hshort : ps.length < 2 ^ 32)
    (hbuffered : ∀ j, j < ps.length → Store.find? s.eng.rbuf (seqPast s j).toNat = ps[j]?)
    (hnext : Store.find? s.eng.rbuf (seqPast s ps.length).toNat = some next)
    (hlen : s.eng.outLen.toNat + (p ++ ps.flatten).length < 2 ^ 32)
    (hcap : s.eng.outLen.toNat + (p ++ ps.flatten).length ≤ s.build.outCap)
    (hover : s.build.outCap < s.eng.outLen.toNat + (p ++ ps.flatten).length + next.length) :
    ∃ t, drain (delivered p s) = .error (engineFault .outOverflow (seqPast s ps.length) t) ∧
      RunDelivered s p ps t ∧ Store.find? t.eng.rbuf (seqPast s ps.length).toNat = some next := by
  have hrunNext (j : Nat) (hj : j < (ps ++ [next]).length) :
      Store.find? s.eng.rbuf (seqPast s j).toNat = (ps ++ [next])[j]? := by
    rw [List.length_append, List.length_singleton] at hj
    rcases Nat.lt_succ_iff_lt_or_eq.1 hj with hlt | rfl
    · rw [List.getElem?_append_left hlt, hbuffered j hlt]
    · rw [List.getElem?_concat_length, hnext]
  have hfuel : ps.length + 1 ≤ s.eng.rbuf.length := by
    rw [← List.length_singleton (a := next), ← List.length_append]
    exact length_run_le (e := (delivered p s).eng.expected) _ (by simpa using hshort)
      (by simpa only [delivered_expected_add] using hrunNext)
  obtain ⟨n, hn⟩ := Nat.exists_eq_add_of_le hfuel
  obtain ⟨t, hdrain, hrun⟩ := drainLoop_delivered (n + 1) hshort.le hbuffered hlen hcap
  have hexpected : t.eng.expected = seqPast s ps.length := by rw [hrun.frame]
  have houtLen : t.eng.outLen.toNat = s.eng.outLen.toNat + (p ++ ps.flatten).length := by
    rw [hrun.frame]
    exact Nat.mod_eq_of_lt hlen
  have hbuild : t.build = s.build := by rw [hrun.frame]
  have hkept : Store.find? t.eng.rbuf (seqPast s ps.length).toNat = some next := by
    rw [hrun.kept _ fun j hj h => by have := seqPast_toNat_inj hshort (by omega) h; omega, hnext]
  refine ⟨t, ?_, hrun, hkept⟩
  calc drain (delivered p s)
      = drainLoop (ps.length + (n + 1)) (delivered p s) := by
        rw [drain, delivered_rbuf, hn, Nat.add_right_comm, Nat.add_assoc]
    _ = drainLoop (n + 1) t := hdrain
    _ = .error (engineFault .outOverflow (seqPast s ps.length) t) := by
        rw [← hexpected]
        exact drainLoop_fault n t next (hexpected ▸ hkept) (by rw [hbuild, houtLen]; exact hover)

/-- Settles O38: the arriving packet meets the fault itself, or it is delivered and the drain meets it. -/
theorem overflowingDeliveryFaults : Obligations.OverflowingDeliveryFaults := by
  intro s f hrun hrole hest hok hseq past
  rw [exec_rxData_of_established hrun hrole hest hok, receiveData_inOrder (hseq ▸ dataCase_expected s)]
  constructor
  case left =>
    intro hover
    rw [deliver_of_overflow f.seq hover]
    rfl
  case right =>
    intro ps p out hshort hbuffered hnext hlen hcap hover
    have hfits : s.eng.outLen.toNat + f.payload.length ≤ s.build.outCap := by
      simp only [out, List.length_append] at hcap
      omega
    obtain ⟨t, hdrain, hdelivered, hkept⟩ :=
      drain_overflows (p := f.payload) hshort hbuffered hnext hlen hcap hover
    rw [deliver_of_fits f.seq hfits]
    simp only [hdrain]
    refine ⟨_, rfl, hdelivered.output, hdelivered.removed, hkept, hdelivered.kept, ?frame⟩
    case frame =>
      rw [hdelivered.frame]
      rfl

end Sys2Proof.Machine
end

section
/-! A transfer's sender (60_exceptions R362): every operation of it puts frames of its own transfer on the TX port,
and leaves what those frames are made of. -/

namespace Sys2Proof.Machine

/-! ## What a step adds to the TX port -/

/-- All that the step adds to the TX port has the property `P`. -/
def Adds (P : Bytes → Prop) (s t : State) : Prop := ∃ fs, t.tx = s.tx ++ fs ∧ ∀ f ∈ fs, P f

theorem Adds.of_tx_eq {P : Bytes → Prop} {s t : State} (h : t.tx = s.tx) : Adds P s t :=
  ⟨[], by rw [h, List.append_nil], by simp⟩

theorem Adds.of_frame {P : Bytes → Prop} {s t : State} {f : Bytes} (h : t.tx = s.tx ++ [f]) (hf : P f) :
    Adds P s t :=
  ⟨[f], h, by simpa using hf⟩

/-- Only the port the step started from counts. -/
theorem Adds.of_source {P : Bytes → Prop} {s u t : State} (h : Adds P u t) (htx : u.tx = s.tx) : Adds P s t := by
  unfold Adds at *
  rwa [htx] at h

theorem Adds.mono {P Q : Bytes → Prop} {s t : State} (h : Adds P s t) (hPQ : ∀ f, P f → Q f) : Adds Q s t := by
  obtain ⟨fs, htx, hfs⟩ := h
  exact ⟨fs, htx, fun f hf => hPQ f (hfs f hf)⟩

/-! ## What the frames of a transfer are made of -/

/-- The step leaves the configuration, INBUF and the END number, which the frames of a transfer are made of. -/
def SameSource (s t : State) : Prop := KeepsInput s t ∧ t.eng.endSeq = s.eng.endSeq

theorem SameSource.of_sends {s t : State} (hs : SendsOnly s t) (hm : MovesWindow s t) : SameSource s t :=
  ⟨hs.receives.keepsInput, by rw [hm]⟩

theorem chunkOf_congr {s t : State} (h : KeepsInput s t) (q : Nat) : chunkOf t q = chunkOf s q := by
  obtain ⟨hcfg, hinbuf⟩ := h
  simp only [chunkOf, hcfg, hinbuf]

theorem SameSource.transferFrame {s t : State} (h : SameSource s t) (f : Bytes) :
    TransferFrame t f ↔ TransferFrame s f := by
  obtain ⟨⟨hcfg, hinbuf⟩, hend⟩ := h
  rw [TransferFrame, TransferFrame, dataF_congr hcfg hinbuf, hcfg, hend]

/-- A run of DATA packets of the transfer. -/
theorem Adds.of_data {s t : State} {lo hi : Nat} (h : t.tx = s.tx ++ (List.range' lo (hi - lo)).map (dataF s))
    (hlow : (origin s.cfg.mode).toNat ≤ lo) (hhigh : hi ≤ s.eng.endSeq.toNat) : Adds (TransferFrame s) s t := by
  refine ⟨_, h, fun f hf => ?_⟩
  obtain ⟨q, hq, rfl⟩ := List.mem_map.1 hf
  rw [List.mem_range'_1] at hq
  exact .inr (.inr ⟨q, by omega, by omega, rfl⟩)

/-! ## The handshake and the cumulative sender -/

theorem closeEntry_adds (s : State) : Adds (TransferFrame s) s (closeEntry s) :=
  .of_frame rfl (.inr (.inl rfl))

theorem startRetry_adds (s : State) : Adds (TransferFrame s) s (startRetry s) := by
  unfold startRetry
  split
  case isTrue => exact .of_frame rfl (.inl rfl)
  case isFalse => exact .of_tx_eq rfl

theorem endRetry_adds (s : State) : Adds (TransferFrame s) s (endRetry s) := by
  unfold endRetry
  split
  case isTrue => exact .of_frame rfl (.inr (.inl rfl))
  case isFalse => exact .of_tx_eq rfl

/-- The data phase starts at ORIGIN (43_sender_cumulative R222). -/
theorem cumulativeStart_adds (s : State) : Adds (TransferFrame s) s (cumulativeStart s) := by
  unfold cumulativeStart
  dsimp only
  split
  case isTrue => exact closeEntry_adds _
  case isFalse => exact .of_data rfl le_rfl (windowEnd_le _)

theorem cumulativeAdvance_adds {s : State} (hsent : (origin s.cfg.mode).toNat ≤ s.eng.sentHi.toNat) :
    Adds (TransferFrame s) s (cumulativeAdvance s) := by
  unfold cumulativeAdvance
  split
  case isTrue => exact closeEntry_adds s
  case isFalse => exact .of_data rfl hsent (windowEnd_le s)

theorem cumulativeAck_adds {s : State} (hsent : (origin s.cfg.mode).toNat ≤ s.eng.sentHi.toNat) (a : Word) :
    Adds (TransferFrame s) s (cumulativeAck a s) := by
  unfold cumulativeAck
  split
  case isTrue => exact cumulativeAdvance_adds hsent
  case isFalse => exact .of_tx_eq rfl

theorem cumulativeTimeout_adds {s : State} (hbase : (origin s.cfg.mode).toNat ≤ s.eng.base.toNat) :
    Adds (TransferFrame s) s (cumulativeTimeout s) := by
  unfold cumulativeTimeout
  split
  case isTrue => exact .of_data rfl hbase (windowEnd_le s)
  case isFalse => exact .of_tx_eq rfl

/-! ## The selective sender -/

/-- The send pass, whatever the next poll's start (44_sender_selective R255). -/
theorem sendPass_adds {s : State} (hbase : (origin s.cfg.mode).toNat ≤ s.eng.base.toNat) (p : Word) :
    Adds (TransferFrame s) s { sendPass s with eng := { (sendPass s).eng with pollStart := p } } := by
  have hend := windowEnd_le s
  obtain ⟨fs, htx, hfs⟩ := sendLoop_tx (windowEnd s - s.eng.base.toNat) s.eng.base.toNat s
  refine ⟨fs, htx, fun f hf => ?_⟩
  obtain ⟨q, hlow, hhigh, rfl⟩ := hfs f hf
  exact .inr (.inr ⟨q, by omega, by omega, rfl⟩)

theorem selectiveContinue_adds {s : State} (hbase : (origin s.cfg.mode).toNat ≤ s.eng.base.toNat) :
    Adds (TransferFrame s) s (selectiveContinue s) := by
  unfold selectiveContinue
  split
  case isTrue => exact closeEntry_adds s
  case isFalse => exact sendPass_adds hbase _

/-- Marking and sliding emit nothing, and leave what the frames are made of. -/
theorem pollFrame_adds {s : State} (h : WindowOk s) (hmode : s.cfg.mode = .selective) (r : Option Parsed) :
    Adds (TransferFrame s) s (pollFrame r s) := by
  have hmark := selectiveMark_keepsPhase r s
  have hwindow : WindowOk (selectiveSlide (selectiveMark r s)) :=
    slideLoop_windowOk _ (selectiveMark_windowOk h hmode r) (by rw [hmark.1]; exact hmode)
  have hsource : SameSource s (selectiveSlide (selectiveMark r s)) :=
    .of_sends ((selectiveMark_sendsOnly r s).trans (slideLoop_sendsOnly _ _))
      ((selectiveMark_movesWindow r s).trans (slideLoop_movesWindow _ _))
  have hcontinue := (selectiveContinue_adds hwindow.baseLow).mono fun f => (hsource.transferFrame f).1
  exact hcontinue.of_source ((slideLoop_tx _ _).trans (selectiveMark_tx r s))

theorem pollTimeout_adds {s : State} (h : WindowOk s) (hmode : s.cfg.mode = .selective) :
    Adds (TransferFrame s) s (pollTimeout s) := by
  have hwindow : WindowOk (selectiveSlide s) := slideLoop_windowOk _ h hmode
  have hsource : SameSource s (selectiveSlide s) :=
    .of_sends (slideLoop_sendsOnly _ s) (slideLoop_movesWindow _ s)
  unfold pollTimeout
  split
  case isTrue =>
    have hpass := (sendPass_adds hwindow.baseLow (sendPass (selectiveSlide s)).now).mono
      fun f => (hsource.transferFrame f).1
    exact hpass.of_source (slideLoop_tx _ s)
  case isFalse => exact .of_tx_eq rfl

/-! ## The sender's two events -/

theorem senderStartAck_adds (a : Word) (s : State) : Adds (TransferFrame s) s (senderStartAck a s) := by
  rcases senderStartAck_cases a s with e | ⟨_, e⟩ | ⟨_, e⟩ <;> rw [e]
  · exact .of_tx_eq rfl
  · exact cumulativeStart_adds { s with eng := { s.eng with hs := .established } }
  · exact selectiveContinue_adds
      (s := { s with eng := { s.eng with hs := .established, base := origin s.cfg.mode } }) le_rfl

/-- SENT_HI of a cumulative data phase is not behind ORIGIN (10_state R58 items 1 and 2). -/
theorem SenderOk.origin_le_sentHi {s : State} (h : SenderOk s) (hmode : s.cfg.mode = .cumulative)
    (hest : s.eng.hs = .established) : (origin s.cfg.mode).toNat ≤ s.eng.sentHi.toNat := by
  obtain ⟨_, hsent, _⟩ := h.cumulative hmode hest
  exact h.baseLow.trans hsent

theorem senderTimer_adds {s : State} (h : SenderOk s) : Adds (TransferFrame s) s (senderTimer s) := by
  unfold senderTimer
  split
  case h_1 => exact startRetry_adds s
  case h_2 =>
    split
    case h_1 => exact cumulativeTimeout_adds h.baseLow
    case h_2 hmode => exact pollTimeout_adds h.windowOk hmode
  case h_3 => exact endRetry_adds s
  case h_4 | h_5 => exact .of_tx_eq rfl

theorem endAck_tx (a : Word) (s : State) : (endAck a s).tx = s.tx := by
  unfold endAck
  split <;> rfl

theorem rxSender_adds {s : State} (h : SenderOk s) (r : Option Parsed) :
    Adds (TransferFrame s) s (rxSender r s) := by
  unfold rxSender
  split
  case isTrue hpoll => exact pollFrame_adds h.windowOk hpoll.2 r
  case isFalse hpoll =>
    split
    case h_2 => exact .of_tx_eq rfl
    case h_1 a _ =>
      unfold senderAck
      split
      case h_1 => exact senderStartAck_adds a s
      case h_2 hest =>
        have hmode : s.cfg.mode = .cumulative := by
          cases hm : s.cfg.mode with
          | cumulative => rfl
          | selective => exact absurd ⟨hest, hm⟩ hpoll
        exact cumulativeAck_adds (h.origin_le_sentHi hmode hest) a
      case h_3 => exact .of_tx_eq (endAck_tx a s)
      case h_4 | h_5 => exact .of_tx_eq rfl

/-! ## What a transfer says of its sender -/

/-- The clauses of `Transfer` on the sender alone. -/
structure SenderSide (s : State) : Prop where
  role    : s.cfg.role = .sender
  build   : s.build.Legal
  config  : ConfigLegal s
  endSeq  : s.eng.endSeq.toNat = (origin s.cfg.mode).toNat + packetCount s.cfg
  numbers : s.eng.running = true → SenderOk s
  flags   : FlagsOk s

/-- The flags do not read the receiver's numbers. -/
theorem FlagsOk.congr {s t : State} (h : FlagsOk s) (hcfg : t.cfg = s.cfg) {e o : Word} {b : List (Nat × Bytes)}
    (heng : t.eng = { s.eng with expected := e, rbuf := b, outLen := o }) : FlagsOk t := by
  constructor <;> simp only [hcfg, heng]
  exacts [h.doneIffClosed, h.runningClear, h.senderStates, h.receiverStates, h.faultKeepsHs, h.noErrNoInfo]

theorem SenderSide.congr {s t : State} (h : SenderSide s) (hcfg : t.cfg = s.cfg) (hbuild : t.build = s.build)
    (heng : t.eng = s.eng) : SenderSide t where
  role := hcfg ▸ h.role
  build := hbuild ▸ h.build
  config := h.config.congr hcfg hbuild
  endSeq := by rw [hcfg, heng]; exact h.endSeq
  numbers hrun := (h.numbers (heng ▸ hrun)).congr hcfg heng
  flags := h.flags.congr hcfg heng

/-- What a step of the sender leaves to check. -/
theorem SenderSide.of_sendsOnly {s t : State} (h : SenderSide s) (hs : SendsOnly s t)
    (hend : t.eng.endSeq = s.eng.endSeq) (hnumbers : t.eng.running = true → SenderOk t) (hflags : FlagsOk t) :
    SenderSide t := by
  have hcfg : t.cfg = s.cfg := by rw [hs]
  have hbuild : t.build = s.build := by rw [hs]
  exact {
    role := hcfg ▸ h.role
    build := hbuild ▸ h.build
    config := h.config.congr hcfg hbuild
    endSeq := by rw [hcfg, hend]; exact h.endSeq
    numbers := hnumbers
    flags := hflags }

theorem SenderSide.of_senderRuns {s t : State} (h : SenderSide s) (hrun : s.eng.running = true)
    (hs : SendsOnly s t) (hm : MovesWindow s t) (hok : SenderRuns t) : SenderSide t := by
  obtain ⟨hnotdone, hnofault⟩ := h.flags.runningClear hrun
  obtain ⟨_, hdone, hfault⟩ := hm.keepsFlags
  have hrole : t.cfg.role ≠ .receiver := by
    rw [show t.cfg = s.cfg by rw [hs], h.role]
    decide
  have hflags : FlagsOk t := flagsOk_of_running (hdone.trans hnotdone) (hfault.trans hnofault)
    (fun _ => hok.1) (fun hr => absurd hr hrole) (by rw [hm]; exact h.flags.noErrNoInfo)
  exact h.of_sendsOnly hs (by rw [hm]) (fun _ => hok.2) hflags

theorem SenderSide.closes {s : State} (h : SenderSide s) (hrun : s.eng.running = true) :
    SenderSide (closeConnection s) :=
  h.of_sendsOnly rfl rfl (fun hstill => absurd hstill Bool.false_ne_true) (h.flags.closes hrun rfl)

/-- A step of a transfer's sender: it stays one, sends frames of the transfer only, and leaves what they are made
of. -/
structure SenderStep (s t : State) : Prop where
  side   : SenderSide t
  source : SameSource s t
  sends  : Adds (TransferFrame s) s t

theorem SenderStep.refl {s : State} (h : SenderSide s) : SenderStep s s :=
  ⟨h, ⟨⟨rfl, rfl⟩, rfl⟩, .of_tx_eq rfl⟩

theorem SenderSide.senderRuns {s : State} (h : SenderSide s) (hrun : s.eng.running = true) : SenderRuns s :=
  ⟨h.flags.senderStates hrun h.role, h.numbers hrun⟩

theorem senderTimer_step {s : State} (h : SenderSide s) (hrun : s.eng.running = true) :
    SenderStep s (senderTimer s) where
  side := h.of_senderRuns hrun (senderTimer_sendsOnly s) (senderTimer_movesWindow s)
    (senderTimer_senderRuns (h.senderRuns hrun))
  source := .of_sends (senderTimer_sendsOnly s) (senderTimer_movesWindow s)
  sends := senderTimer_adds (h.numbers hrun)

theorem rxSender_step {s : State} (h : SenderSide s) (hrun : s.eng.running = true) (r : Option Parsed) :
    SenderStep s (rxSender r s) := by
  have hsends := rxSender_adds (h.numbers hrun) r
  have hclose (e : rxSender r s = closeConnection s) : SenderStep s (rxSender r s) := by
    rw [e] at hsends ⊢
    exact ⟨h.closes hrun, ⟨⟨rfl, rfl⟩, rfl⟩, hsends⟩
  rcases rxSender_senderRuns (h.senderRuns hrun) r with hok | e
  · rcases rxSender_cases r s with hm | ⟨_, e⟩
    · exact ⟨h.of_senderRuns hrun (rxSender_sendsOnly r s) hm hok, .of_sends (rxSender_sendsOnly r s) hm, hsends⟩
    · exact hclose e
  · exact hclose e

/-- A frame at a transfer's sender, whatever it holds. -/
theorem SenderSide.frame {s : State} (h : SenderSide s) (r : Option Parsed) : SenderStep s (rxEvent r s) := by
  cases hrun : s.eng.running with
  | false => rw [rxEvent_of_not_running hrun]; exact .refl h
  | true => rw [rxEvent_of_sender hrun h.role]; exact rxSender_step h hrun r

theorem SenderSide.tick {s t : State} (h : SenderSide s) (ht : exec .tick s = .next t) : SenderStep s t := by
  have hticked : SenderSide (ticked s) := h.congr rfl rfl rfl
  cases hrun : s.eng.running with
  | false =>
    cases (exec_tick_of_no_sender (.inl hrun)).symm.trans ht
    exact ⟨hticked, ⟨⟨rfl, rfl⟩, rfl⟩, .of_tx_eq rfl⟩
  | true =>
    cases (exec_tick_of_sender hrun h.role).symm.trans ht
    obtain ⟨hside, hsource, hsends⟩ := senderTimer_step hticked hrun
    exact ⟨hside, hsource, hsends⟩

end Sys2Proof.Machine
end

section
/-! A transfer's receiver (45_receiver_reorder R290): OUTBUF holds the sender's input up to the expected packet, the
reorder buffer holds later packets of it, and every frame of the transfer keeps that. -/

namespace Sys2Proof.Machine

/-! ## OUTBUF holds the first packets of the input -/

/-- The packets before the expected one stand in OUTBUF: the clauses of `Transfer` on what `s` has delivered of the
input of the sender `l`. -/
structure HoldsInput (l s : State) : Prop where
  expectedLow  : (origin l.cfg.mode).toNat ≤ s.eng.expected.toNat
  expectedHigh : s.eng.expected.toNat ≤ l.eng.endSeq.toNat
  length : s.eng.outLen.toNat =
    min l.cfg.inLen.toNat ((s.eng.expected.toNat - (origin l.cfg.mode).toNat) * l.cfg.chunk.toNat)
  output : ∀ i, i < s.eng.outLen.toNat → s.outbuf.read i = l.inbuf.read i

theorem HoldsInput.congr {l s t : State} (h : HoldsInput l s) (hexp : t.eng.expected = s.eng.expected)
    (hlen : t.eng.outLen = s.eng.outLen) (hout : t.outbuf = s.outbuf) : HoldsInput l t := by
  constructor <;> simp only [hexp, hlen, hout]
  exacts [h.expectedLow, h.expectedHigh, h.length, h.output]

/-- The expected packet, delivered: the input continues where OUTBUF ends (20_memory R95, 45_receiver_reorder R281). -/
theorem HoldsInput.deliver {l s t : State} (h : HoldsInput l s)
    (hlt : s.eng.expected.toNat < l.eng.endSeq.toNat)
    (hout : t.outbuf = s.outbuf.writeBytes s.eng.outLen.toNat (chunkOf l s.eng.expected.toNat))
    (hlen : t.eng.outLen = addWord s.eng.outLen (chunkOf l s.eng.expected.toNat).length)
    (hexp : t.eng.expected = s.eng.expected + 1) : HoldsInput l t := by
  have hlow := h.expectedLow
  have hlength := h.length
  have hnext : t.eng.expected.toNat = s.eng.expected.toNat + 1 := by rw [hexp, toNat_add_one_of_lt hlt]
  generalize hoff : (s.eng.expected.toNat - (origin l.cfg.mode).toNat) * l.cfg.chunk.toNat = off at hlength
  have hchunk : chunkOf l s.eng.expected.toNat =
      l.inbuf.readBytes off (min l.cfg.chunk.toNat (l.cfg.inLen.toNat - off)) := by
    rw [← hoff]
    rfl
  have hsize : (chunkOf l s.eng.expected.toNat).length = min l.cfg.chunk.toNat (l.cfg.inLen.toNat - off) := by
    rw [hchunk, Memory.length_readBytes]
  have hoffNext : (s.eng.expected.toNat + 1 - (origin l.cfg.mode).toNat) * l.cfg.chunk.toNat =
      off + l.cfg.chunk.toNat := by
    rw [Nat.sub_add_comm hlow, Nat.succ_mul, hoff]
  have hinLen := l.cfg.inLen.isLt
  have hlengthNext : t.eng.outLen.toNat = s.eng.outLen.toNat + (chunkOf l s.eng.expected.toNat).length := by
    rw [hlen]
    exact addWord_toNat (by omega)
  refine ⟨?low, ?high, ?length, fun i hi => ?output⟩
  case low => omega
  case high => omega
  case length =>
    rw [hnext, hoffNext]
    omega
  case output =>
    rw [hout, Memory.read_writeBytes]
    split
    case isTrue hin =>
      have hstart : s.eng.outLen.toNat = off := by omega
      rw [hchunk, Memory.getD_readBytes _ _ (by omega), hstart, Nat.add_sub_cancel' (by omega)]
    case isFalse hin => exact h.output i (by omega)

/-! ## The reorder buffer holds later packets of the input -/

/-- The buffer lists packets of the input of the sender `l`, from the number `low` on, each once. -/
structure BuffersInput (l : State) (low : Nat) (rbuf : List (Nat × Bytes)) : Prop where
  sorted  : Store.Sorted rbuf
  packets : ∀ e ∈ rbuf, low ≤ e.1 ∧ e.1 < l.eng.endSeq.toNat ∧ e.2 = chunkOf l e.1

theorem BuffersInput.mono {l : State} {low low' : Nat} {rbuf : List (Nat × Bytes)} (h : BuffersInput l low rbuf)
    (hle : low' ≤ low) : BuffersInput l low' rbuf where
  sorted := h.sorted
  packets e he := by
    obtain ⟨hlow, hrest⟩ := h.packets e he
    exact ⟨hle.trans hlow, hrest⟩

theorem BuffersInput.insert {l : State} {low q : Nat} {rbuf : List (Nat × Bytes)} (h : BuffersInput l low rbuf)
    (hlow : low ≤ q) (hhigh : q < l.eng.endSeq.toNat) :
    BuffersInput l low (Store.insert rbuf q (chunkOf l q)) where
  sorted := sorted_insert q _ h.sorted
  packets e he := by
    rcases mem_insert he with rfl | hold
    · exact ⟨hlow, hhigh, rfl⟩
    · exact h.packets e hold

/-- Without its lowest number the buffer begins one later. -/
theorem BuffersInput.erase {l : State} {low : Nat} {rbuf : List (Nat × Bytes)} (h : BuffersInput l low rbuf) :
    BuffersInput l (low + 1) (Store.erase rbuf low) where
  sorted := sorted_erase low h.sorted
  packets e he := by
    obtain ⟨hold, hne⟩ := mem_erase.1 he
    obtain ⟨hlow, hrest⟩ := h.packets e hold
    exact ⟨lt_of_le_of_ne hlow hne.symm, hrest⟩

theorem BuffersInput.find {l : State} {low q : Nat} {rbuf : List (Nat × Bytes)} {p : Bytes}
    (h : BuffersInput l low rbuf) (hp : Store.find? rbuf q = some p) :
    q < l.eng.endSeq.toNat ∧ p = chunkOf l q :=
  (h.packets (q, p) ((find?_eq_some_iff h.sorted).1 hp)).2

theorem BuffersInput.of_find?_eq_none {l : State} {low : Nat} {rbuf : List (Nat × Bytes)}
    (h : BuffersInput l low rbuf) (hnone : Store.find? rbuf low = none) : BuffersInput l (low + 1) rbuf where
  sorted := h.sorted
  packets e he := by
    obtain ⟨hlow, hrest⟩ := h.packets e he
    refine ⟨lt_of_le_of_ne hlow fun heq => ?_, hrest⟩
    have hfind : Store.find? rbuf low = some e.2 := (find?_eq_some_iff h.sorted).2 (heq ▸ he)
    cases hnone.symm.trans hfind

/-! ## The drain (R282) -/

/-- Between two turns of the drain the expected packet may be buffered still. -/
structure Draining (l s : State) : Prop where
  holds   : HoldsInput l s
  buffers : BuffersInput l s.eng.expected.toNat s.eng.rbuf

theorem Draining.drained {l s : State} (h : Draining l s) {p : Bytes}
    (hp : Store.find? s.eng.rbuf s.eng.expected.toNat = some p) : Draining l (drained p s) := by
  obtain ⟨hlt, rfl⟩ := h.buffers.find hp
  have hnext : (s.eng.expected + 1).toNat = s.eng.expected.toNat + 1 := toNat_add_one_of_lt hlt
  exact ⟨h.holds.deliver hlt rfl rfl rfl, h.buffers.erase.mono hnext.le⟩

/-- However the drain ends, what it delivered is input. -/
theorem drainLoop_holdsInput {l s : State} (n : Nat) (h : Draining l s) :
    HoldsInput l (Outcome.state (drainLoop n s)) := by
  induction n generalizing s with
  | zero => exact h.holds
  | succ n ih =>
    rcases drainLoop_succ_cases n s with e | ⟨p, hp, _, e⟩ | e <;> rw [e]
    · exact h.holds
    · exact ih (h.drained hp)
    · exact h.holds.congr rfl rfl rfl

theorem drainLoop_ok_draining {l s t : State} {n : Nat} (h : Draining l s) (hl : drainLoop n s = .ok t) :
    Draining l t := by
  induction n generalizing s with
  | zero => cases hl; exact h
  | succ n ih =>
    rcases drainLoop_succ_cases n s with e | ⟨p, hp, _, e⟩ | e <;> rw [e] at hl
    · cases hl; exact h
    · exact ih (h.drained hp) hl
    · cases hl

/-- A drain that ends without a fault leaves only packets after the expected one. -/
theorem drain_ok_buffersInput {l s t : State} (h : Draining l s) (hl : drain s = .ok t) :
    BuffersInput l (t.eng.expected.toNat + 1) t.eng.rbuf :=
  (drainLoop_ok_draining h hl).buffers.of_find?_eq_none (drainLoop_ends _ le_rfl hl)

/-! ## What a transfer says of its receiver -/

/-- The clauses of `Transfer` on the receiver `s`, whose sender is `l`. -/
structure ReceiverSide (l s : State) : Prop where
  role     : s.cfg.role = .receiver
  sameMode : l.cfg.mode = s.cfg.mode
  flags    : FlagsOk s
  holds    : HoldsInput l s
  buffers  : s.eng.running = true → BuffersInput l (s.eng.expected.toNat + 1) s.eng.rbuf
  complete : s.eng.done = true → s.eng.expected = l.eng.endSeq

theorem ReceiverSide.congr {l s t : State} (h : ReceiverSide l s) (hcfg : t.cfg = s.cfg) (heng : t.eng = s.eng)
    (hout : t.outbuf = s.outbuf) : ReceiverSide l t where
  role := hcfg ▸ h.role
  sameMode := hcfg ▸ h.sameMode
  flags := h.flags.congr hcfg heng
  holds := h.holds.congr (by rw [heng]) (by rw [heng]) hout
  buffers := by rw [heng]; exact h.buffers
  complete := by rw [heng]; exact h.complete

/-- The receiver's clauses read of the sender only what the frames are made of. -/
theorem ReceiverSide.source {l l' s : State} (h : ReceiverSide l s) (hsame : SameSource l l') :
    ReceiverSide l' s := by
  have hchunk := chunkOf_congr hsame.1
  obtain ⟨⟨hcfg, hinbuf⟩, hend⟩ := hsame
  refine ⟨h.role, hcfg ▸ h.sameMode, h.flags, ?holds, fun hrun => ?buffers, hend ▸ h.complete⟩
  case holds =>
    constructor <;> simp only [hcfg, hinbuf, hend]
    exacts [h.holds.expectedLow, h.holds.expectedHigh, h.holds.length, h.holds.output]
  case buffers =>
    refine ⟨(h.buffers hrun).sorted, ?_⟩
    simp only [hend, hchunk]
    exact (h.buffers hrun).packets

/-- A reply of the receiver. -/
def IsAck (f : Bytes) : Prop := ∃ a, f = ackF a

/-- A step of a transfer's receiver: it stays one, and answers with ACKs only. -/
structure ReceiverStep (l s t : State) : Prop where
  side    : ReceiverSide l t
  answers : Adds IsAck s t

theorem ReceiverStep.refl {l s : State} (h : ReceiverSide l s) : ReceiverStep l s s :=
  ⟨h, .of_tx_eq rfl⟩

/-! ## A DATA frame of the transfer -/

theorem ackData_answers {s u : State} (htx : u.tx = s.tx) (c : DataCase) (q : Word) :
    Adds IsAck s (ackData c q u) := by
  unfold ackData
  split
  case h_2 => exact .of_tx_eq htx
  case h_1 | h_3 => exact .of_frame (by rw [emit_tx, htx]) ⟨_, rfl⟩

theorem receiveData_answers (q : Word) (p : Bytes) (s : State) : Adds IsAck s (receiveData q p s) := by
  cases hc : dataCase s q with
  | inOrder =>
    rcases receiveData_inOrder_cases (p := p) hc with e | ⟨t, hd, hl⟩
    · rw [e]; exact .of_tx_eq rfl
    · have hdrain : (Outcome.state (drain t)).tx = s.tx :=
        (drainLoop_tx _ t).trans (by rw [(deliver_eq_ok hd).2])
      rcases hl with hl | ⟨u, hl, e⟩ <;> rw [hl] at hdrain
      · exact .of_tx_eq hdrain
      · rw [e]; exact ackData_answers hdrain _ q
  | ahead =>
    simp only [receiveData, hc]
    exact ackData_answers (bufferAhead_tx q p s) _ q
  | behind | outOfWindow =>
    simp only [receiveData, hc]
    exact ackData_answers rfl _ q

/-- What the receiver holds after a step that goes on, or after one that ended in the engine fault. -/
def HoldsAndBuffers (l t : State) : Prop :=
  HoldsInput l t ∧ (t.eng.running = true → BuffersInput l (t.eng.expected.toNat + 1) t.eng.rbuf)

theorem ackData_holdsAndBuffers {l s : State} (h : HoldsAndBuffers l s) (c : DataCase) (q : Word) :
    HoldsAndBuffers l (ackData c q s) := by
  have heng := ackData_eng c q s
  refine ⟨h.1.congr (by rw [heng]) (by rw [heng]) (by rw [ackData_sendsOnly c q s]), ?_⟩
  rw [heng]
  exact h.2

theorem bufferAhead_holdsAndBuffers {l s : State} {q : Word} (hholds : HoldsInput l s)
    (hbuffers : BuffersInput l (s.eng.expected.toNat + 1) s.eng.rbuf) (hlow : s.eng.expected.toNat < q.toNat)
    (hhigh : q.toNat < l.eng.endSeq.toNat) : HoldsAndBuffers l (bufferAhead q (chunkOf l q.toNat) s) := by
  unfold bufferAhead
  split
  case h_1 => exact ⟨hholds, fun _ => hbuffers⟩
  case h_2 => exact ⟨hholds.congr rfl rfl rfl, fun _ => hbuffers.insert hlow hhigh⟩

/-- In order, the packet is delivered and the drain goes on from it (R281, R282), or the fault leaves what was
delivered until then (60_exceptions R343). -/
theorem receiveData_inOrder_holdsAndBuffers {l s : State} {q : Word} (hholds : HoldsInput l s)
    (hbuffers : BuffersInput l (s.eng.expected.toNat + 1) s.eng.rbuf) (hcase : dataCase s q = .inOrder)
    (hseq : q = s.eng.expected) (hhigh : q.toNat < l.eng.endSeq.toNat) :
    HoldsAndBuffers l (receiveData q (chunkOf l q.toNat) s) := by
  subst hseq
  rcases receiveData_inOrder_cases (p := chunkOf l s.eng.expected.toNat) hcase with e | ⟨t, hd, hl⟩
  · rw [e]
    exact ⟨hholds.congr rfl rfl rfl, fun hrun => absurd hrun Bool.false_ne_true⟩
  · have hnext : (s.eng.expected + 1).toNat = s.eng.expected.toNat + 1 := toNat_add_one_of_lt hhigh
    have hdraining : Draining l t := by
      rw [(deliver_eq_ok hd).2]
      exact ⟨hholds.deliver hhigh rfl rfl rfl, hbuffers.mono hnext.le⟩
    have hdrained := drainLoop_holdsInput t.eng.rbuf.length hdraining
    rcases hl with hl | ⟨u, hl, e⟩ <;> rw [← drain, hl] at hdrained
    · have hstop := (drainLoop_error_overflows hl).flags.1
      exact ⟨hdrained, fun hrun => absurd (hstop.symm.trans hrun) Bool.false_ne_true⟩
    · rw [e]
      exact ackData_holdsAndBuffers ⟨hdrained, fun _ => drain_ok_buffersInput hdraining hl⟩ _ _

theorem receiveData_holdsAndBuffers {l s : State} {q : Word} (hholds : HoldsInput l s)
    (hbuffers : BuffersInput l (s.eng.expected.toNat + 1) s.eng.rbuf) (hhigh : q.toNat < l.eng.endSeq.toNat) :
    HoldsAndBuffers l (receiveData q (chunkOf l q.toNat) s) := by
  have hsame : HoldsAndBuffers l s := ⟨hholds, fun _ => hbuffers⟩
  cases hc : dataCase s q with
  | inOrder =>
    have hseq : q = s.eng.expected := by
      unfold dataCase at hc
      split_ifs at hc with hq
      exact hq
    exact receiveData_inOrder_holdsAndBuffers hholds hbuffers hc hseq hhigh
  | ahead =>
    simp only [receiveData, hc]
    exact ackData_holdsAndBuffers (bufferAhead_holdsAndBuffers hholds hbuffers (dataCase_ahead hc).1 hhigh) _ q
  | behind | outOfWindow =>
    simp only [receiveData, hc]
    exact ackData_holdsAndBuffers hsame _ q

/-- A DATA frame of the transfer at a running receiver. -/
theorem receiveData_step {l s : State} (h : ReceiverSide l s) (hrun : s.eng.running = true)
    (hest : s.eng.hs = .established) {q : Word} (hhigh : q.toNat < l.eng.endSeq.toNat) :
    ReceiverStep l s (receiveData q (chunkOf l q.toNat) s) := by
  obtain ⟨hnotdone, _⟩ := h.flags.runningClear hrun
  obtain ⟨hholds, hbuffers⟩ := receiveData_holdsAndBuffers h.holds (h.buffers hrun) hhigh
  have hcfg : (receiveData q (chunkOf l q.toNat) s).cfg = s.cfg := by rw [receiveData_receivesOnly]
  have hflags : FlagsOk (receiveData q (chunkOf l q.toNat) s) ∧
      (receiveData q (chunkOf l q.toNat) s).eng.done = false := by
    rcases receiveData_cases q (chunkOf l q.toNat) s with hmove | hover
    · obtain ⟨_, hdone, _⟩ := hmove.keepsFlags
      exact ⟨h.flags.congr hcfg hmove, hdone.trans hnotdone⟩
    · obtain ⟨_, hdone, _⟩ := hover.flags
      exact ⟨h.flags.overflows hrun hest hover, hdone.trans hnotdone⟩
  refine ⟨⟨hcfg ▸ h.role, hcfg ▸ h.sameMode, hflags.1, hholds, hbuffers, fun hdone => ?_⟩,
    receiveData_answers q _ s⟩
  exact absurd (hflags.2.symm.trans hdone) Bool.false_ne_true

/-! ## START and END -/

theorem ReceiverSide.replies {l s : State} (h : ReceiverSide l s) (a : Word) : ReceiverStep l s (emit (ackF a) s) :=
  ⟨h.congr rfl rfl rfl, .of_frame rfl ⟨a, rfl⟩⟩

theorem receiverListen_step {l s : State} (h : ReceiverSide l s) (hrun : s.eng.running = true)
    (r : Option Parsed) : ReceiverStep l s (receiverListen r s) := by
  obtain ⟨hnotdone, hnofault⟩ := h.flags.runningClear hrun
  unfold receiverListen
  split
  case isFalse => exact .refl h
  case isTrue =>
    have hflags : FlagsOk { s with eng := { s.eng with hs := .established } } :=
      flagsOk_of_running hnotdone hnofault (fun hr => nomatch h.role.symm.trans hr) (fun _ => .inr rfl)
        h.flags.noErrNoInfo
    have hlistened : ReceiverSide l { s with eng := { s.eng with hs := .established } } :=
      ⟨h.role, h.sameMode, hflags, h.holds.congr rfl rfl rfl, h.buffers, h.complete⟩
    exact ⟨hlistened.congr rfl rfl rfl, .of_frame rfl ⟨_, rfl⟩⟩

/-- The END of the transfer closes the connection only where every packet before it was delivered (42_handshake
R201). -/
theorem receiverEnd_step {l s : State} (h : ReceiverSide l s) (hrun : s.eng.running = true) :
    ReceiverStep l s (receiverEnd l.eng.endSeq s) := by
  unfold receiverEnd
  split
  case isFalse => exact h.replies s.eng.expected
  case isTrue hend =>
    have hflags : FlagsOk (closeConnection (emit (ackF l.eng.endSeq) s)) := h.flags.closes hrun rfl
    exact ⟨⟨h.role, h.sameMode, hflags, h.holds.congr rfl rfl rfl,
      fun hstill => absurd hstill Bool.false_ne_true, fun _ => hend.symm⟩, .of_frame rfl ⟨_, rfl⟩⟩

/-! ## Every frame of the transfer -/

/-- An encoded frame arrives as a valid frame of its type, number and payload (41_codec R168). -/
theorem rxParse_encodeFrame (t q : Word) {p : Bytes} (hp : p.length ≤ maxPayload) :
    ∃ f, rxParse (encodeFrame t q p) = some (parsedRx t f) ∧ (parsedRx t f).ok = true ∧ f.seq = q ∧
      f.payload = p := by
  have hparse := rxParse_encodeFrame_append t q [] hp
  rw [List.append_nil] at hparse
  have hok := verifyFrame_stampedHeader t q p
  refine ⟨{ seq := q, length := (stampedHeader t q p).length, csum := (stampedHeader t q p).csum, payload := p },
    ?_, hok, rfl, rfl⟩
  rw [hparse, ← hok]
  rfl

/-- A valid frame of a named type at an ESTABLISHED receiver (46_host_control R322). -/
theorem rxEvent_established_valid {s : State} (hrun : s.eng.running = true) (hrole : s.cfg.role = .receiver)
    (hest : s.eng.hs = .established) {t : Word} {f : RxFrame} (hok : (parsedRx t f).ok = true) :
    rxEvent (some (parsedRx t f)) s =
      if t = typeStart then receiverDuplicateStart s
      else if t = typeData then receiveData f.seq f.payload s
      else if t = typeEnd then receiverEnd f.seq s
      else s := by
  rw [rxEvent_established hrun hrole hest, hok]
  simp

/-- The number and the payload of a transfer's DATA frame. -/
theorem rxParse_dataF {l : State} (hchunk : l.cfg.chunk.toNat ≤ maxPayload) {q : Nat}
    (hq : q < l.eng.endSeq.toNat) :
    ∃ f, rxParse (dataF l q) = some (parsedRx typeData f) ∧ (parsedRx typeData f).ok = true ∧
      f.seq.toNat = q ∧ f.payload = chunkOf l q := by
  obtain ⟨f, hparse, hok, hseq, hpayload⟩ :=
    rxParse_encodeFrame typeData (BitVec.ofNat 32 q) ((chunkOf_length_le l q).trans hchunk)
  have hnat : (BitVec.ofNat 32 q).toNat = q := Nat.mod_eq_of_lt (hq.trans l.eng.endSeq.isLt)
  exact ⟨f, hparse, hok, by rw [hseq, hnat], hpayload⟩

theorem receiverEstablished_step {l s : State} (h : ReceiverSide l s) (hl : SenderSide l)
    (hrun : s.eng.running = true) (hest : s.eng.hs = .established) {raw : Bytes} (hraw : TransferFrame l raw) :
    ReceiverStep l s (rxEvent (rxParse raw) s) := by
  rcases hraw with rfl | rfl | ⟨q, _, hhigh, rfl⟩
  · obtain ⟨f, hparse, hok, _⟩ := rxParse_encodeFrame typeStart 0 (p := []) (Nat.zero_le _)
    rw [startF, hparse, rxEvent_established_valid hrun h.role hest hok, if_pos rfl]
    exact h.replies _
  · obtain ⟨f, hparse, hok, hseq, _⟩ := rxParse_encodeFrame typeEnd l.eng.endSeq (p := []) (Nat.zero_le _)
    rw [endF, hparse, rxEvent_established_valid hrun h.role hest hok, if_neg (by decide), if_neg (by decide),
      if_pos rfl, hseq]
    exact receiverEnd_step h hrun
  · obtain ⟨f, hparse, hok, hseq, hpayload⟩ := rxParse_dataF (hl.config.chunk hl.role).2 hhigh
    rw [hparse, rxEvent_established_valid hrun h.role hest hok, if_neg (by decide), if_pos rfl, hpayload, ← hseq]
    exact receiveData_step h hrun hest (hseq ▸ hhigh)

theorem ReceiverSide.frame {l s : State} (h : ReceiverSide l s) (hl : SenderSide l) {raw : Bytes}
    (hraw : TransferFrame l raw) : ReceiverStep l s (rxEvent (rxParse raw) s) := by
  cases hrun : s.eng.running with
  | false => rw [rxEvent_of_not_running hrun]; exact .refl h
  | true =>
    rcases h.flags.receiverStates hrun h.role with hidle | hest
    · rw [rxEvent_listening hrun h.role hidle]
      exact receiverListen_step h hrun _
    · exact receiverEstablished_step h hl hrun hest hraw

theorem ReceiverSide.tick {l s t : State} (h : ReceiverSide l s) (ht : exec .tick s = .next t) :
    ReceiverStep l s t := by
  cases (exec_tick_of_no_sender (.inr h.role)).symm.trans ht
  exact ⟨h.congr rfl rfl rfl, .of_tx_eq rfl⟩

end Sys2Proof.Machine
end

section
/-! The transfer of the two blocks (60_exceptions R360, R362): every undisturbed action keeps it, and where its receiver
is done, OUTBUF holds the whole input. -/

namespace Sys2Proof.Machine

/-! ## The clauses of a transfer, by block -/

theorem Transfer.senderSide {y : System} (h : Transfer y) : SenderSide y.left :=
  ⟨h.senderRole, h.leftBuild, h.leftConfig, h.leftEndSeq, h.leftNumbers, h.leftFlags⟩

theorem Transfer.receiverSide {y : System} (h : Transfer y) : ReceiverSide y.left y.right where
  role := h.receiverRole
  sameMode := h.sameMode
  flags := h.rightFlags
  holds := ⟨h.expectedLow, h.expectedHigh, h.delivered, h.output⟩
  buffers hrun := ⟨h.bufferedOnce hrun, h.buffered hrun⟩
  complete := h.complete

theorem Transfer.of_sides {y : System} (hsender : SenderSide y.left) (hreceiver : ReceiverSide y.left y.right)
    (hleft : y.left.tx = []) (hright : y.right.tx = []) (hframes : ∀ f ∈ y.toRight, TransferFrame y.left f)
    (hreplies : ∀ f ∈ y.toLeft, IsAck f) : Transfer y where
  senderRole := hsender.role
  receiverRole := hreceiver.role
  sameMode := hreceiver.sameMode
  leftBuild := hsender.build
  leftConfig := hsender.config
  leftEndSeq := hsender.endSeq
  leftNumbers := hsender.numbers
  leftFlags := hsender.flags
  rightFlags := hreceiver.flags
  leftTaken := hleft
  rightTaken := hright
  inFlight := hframes
  replies := hreplies
  expectedLow := hreceiver.holds.expectedLow
  expectedHigh := hreceiver.holds.expectedHigh
  buffered hrun := (hreceiver.buffers hrun).packets
  bufferedOnce hrun := (hreceiver.buffers hrun).sorted
  delivered := hreceiver.holds.length
  output := hreceiver.holds.output
  complete := hreceiver.complete

/-! ## One event at one block -/

/-- The event's instruction, and then the frames taken from the TX port (log 15). -/
theorem instanceEvent_of_exec {e : Input} {s t : State}
    (h : exec (decodeInput e) { s with inputs := [] } = .next t) :
    instanceEvent e s = ({ t with inputs := s.inputs, tx := [] }, t.tx) := by
  rw [instanceEvent, step_of_inputs_cons rfl, h]

/-- What can arrive in a transfer at a block: a TICK or a host read, or a frame that is fit to arrive there. -/
inductive Arrival (fit : Bytes → Prop) : Input → Prop
  | tick : Arrival fit .tick
  | regRead (index : BitVec 8) (data : Word) : Arrival fit (.reg false index data)
  | bufRead (code : BitVec 2) (offset : Word) (data : Byte) : Arrival fit (.buf false code offset data)
  | frame {raw : Bytes} (hfit : fit raw) : Arrival fit (.rx raw)

theorem arrival_of_undisturbed {d : Side} {e : Input} (fit : Bytes → Prop) (h : Undisturbed (.event d e) = true) :
    Arrival fit e ∧ isFrame e = false := by
  unfold Undisturbed at h
  split at h
  case h_1 heq => cases heq; exact ⟨.tick, rfl⟩
  case h_2 heq => cases heq; exact ⟨.regRead _ _, rfl⟩
  case h_3 heq => cases heq; exact ⟨.bufRead _ _ _, rfl⟩
  case h_4 => cases h
  case h_5 heq | h_6 heq | h_7 heq | h_8 heq => cases heq
  case h_9 => cases h

theorem SenderSide.arrival {s t : State} {fit : Bytes → Prop} {e : Input} (h : SenderSide s) (he : Arrival fit e)
    (ht : exec (decodeInput e) s = .next t) : SenderStep s t := by
  cases he with
  | tick => exact h.tick ht
  | regRead index data | bufRead code offset data =>
    cases ht
    exact ⟨h.congr rfl rfl rfl, ⟨⟨rfl, rfl⟩, rfl⟩, .of_tx_eq rfl⟩
  | @frame raw _ =>
    cases (arrivingFrameRunsItsParse raw s).symm.trans ht
    exact h.frame _

theorem ReceiverSide.arrival {l s t : State} {e : Input} (h : ReceiverSide l s) (hl : SenderSide l)
    (he : Arrival (TransferFrame l) e) (ht : exec (decodeInput e) s = .next t) : ReceiverStep l s t := by
  cases he with
  | tick => exact h.tick ht
  | regRead index data | bufRead code offset data =>
    cases ht
    exact ⟨h.congr rfl rfl rfl, .of_tx_eq rfl⟩
  | @frame raw hraw =>
    cases (arrivingFrameRunsItsParse raw s).symm.trans ht
    exact h.frame hl hraw

/-! ## One event in the system -/

/-- The action keeps the transfer, and the input that it transfers. -/
def Continues (y z : System) : Prop := Transfer z ∧ KeepsInput y.left z.left

theorem Transfer.continues_self {y : System} (h : Transfer y) : Continues y y := ⟨h, rfl, rfl⟩

theorem Transfer.left_event {y : System} {fit : Bytes → Prop} {e : Input} (h : Transfer y) (he : Arrival fit e) :
    Continues y (y.eventAt .left e) := by
  obtain ⟨t, ht⟩ := exec_completes (decodeInput e) { y.left with inputs := [] }
  have hsender : SenderSide { y.left with inputs := [] } := h.senderSide.congr rfl rfl rfl
  obtain ⟨hside, hsource, fs, htx, hfs⟩ := hsender.arrival he ht
  have hsame : SameSource y.left { t with inputs := y.left.inputs, tx := [] } := hsource
  have hsent : t.tx = fs := by rw [htx]; exact congrArg (· ++ fs) h.leftTaken
  simp only [System.eventAt, instanceEvent_of_exec ht]
  refine ⟨.of_sides (hside.congr rfl rfl rfl) (h.receiverSide.source hsame) rfl h.rightTaken (fun f hf => ?_)
    h.replies, hsame.1⟩
  rw [hsame.transferFrame]
  rcases List.mem_append.1 hf with hold | hnew
  · exact h.inFlight f hold
  · exact hfs f (hsent ▸ hnew)

theorem Transfer.right_event {y : System} {e : Input} (h : Transfer y) (he : Arrival (TransferFrame y.left) e) :
    Continues y (y.eventAt .right e) := by
  obtain ⟨t, ht⟩ := exec_completes (decodeInput e) { y.right with inputs := [] }
  have hreceiver : ReceiverSide y.left { y.right with inputs := [] } := h.receiverSide.congr rfl rfl rfl
  obtain ⟨hside, fs, htx, hfs⟩ := hreceiver.arrival h.senderSide he ht
  have hsent : t.tx = fs := by rw [htx]; exact congrArg (· ++ fs) h.rightTaken
  simp only [System.eventAt, instanceEvent_of_exec ht]
  refine ⟨.of_sides h.senderSide (hside.congr rfl rfl rfl) h.leftTaken rfl h.inFlight (fun f hf => ?_), rfl, rfl⟩
  rcases List.mem_append.1 hf with hold | hnew
  · exact h.replies f hold
  · exact hfs f (hsent ▸ hnew)

/-! ## The channel -/

/-- Frames already in flight, fewer or more of them and in any order. -/
theorem Transfer.setInFlight {y : System} (h : Transfer y) {d : Side} {fs : List Bytes}
    (hfs : fs ⊆ y.inFlight d) : Transfer (y.setInFlight d fs) := by
  cases d with
  | left =>
    exact .of_sides h.senderSide h.receiverSide h.leftTaken h.rightTaken h.inFlight
      fun f hf => h.replies f (hfs hf)
  | right =>
    exact .of_sides h.senderSide h.receiverSide h.leftTaken h.rightTaken
      (fun f hf => h.inFlight f (hfs hf)) h.replies

theorem Transfer.setInFlight_continues {y : System} (h : Transfer y) {d : Side} {fs : List Bytes}
    (hfs : fs ⊆ y.inFlight d) : Continues y (y.setInFlight d fs) :=
  ⟨h.setInFlight hfs, by rw [setInFlight_left]; exact ⟨rfl, rfl⟩⟩

/-- A frame in flight arrives: at the sender any frame may, at the receiver one of the transfer does. -/
theorem Transfer.deliver {y : System} (h : Transfer y) (d : Side) (i : Nat) :
    Continues y (y.act (.deliver d i)) := by
  rcases act_deliver_cases y d i with e | ⟨f, hf, e⟩ <;> rw [e]
  · exact h.continues_self
  · have hmem := List.mem_of_getElem? hf
    have hrest := h.setInFlight (d := d) (List.eraseIdx_subset (l := y.inFlight d) (k := i))
    cases d with
    | left => exact hrest.left_event (.frame (fit := IsAck) (h.replies f hmem))
    | right => exact hrest.right_event (.frame (h.inFlight f hmem))

/-- What a duplication or a reordering puts behind the others was in flight before. -/
theorem append_subset_inFlight {y : System} {d : Side} {i : Nat} {f : Bytes} (hf : (y.inFlight d)[i]? = some f)
    {fs : List Bytes} (hfs : fs ⊆ y.inFlight d) : fs ++ [f] ⊆ y.inFlight d :=
  List.append_subset.2 ⟨hfs, List.cons_subset.2 ⟨List.mem_of_getElem? hf, List.nil_subset _⟩⟩

theorem Transfer.duplicate {y : System} (h : Transfer y) (d : Side) (i : Nat) :
    Continues y (y.act (.duplicate d i)) := by
  rcases act_duplicate_cases y d i with e | ⟨f, hf, e⟩ <;> rw [e]
  · exact h.continues_self
  · exact h.setInFlight_continues (append_subset_inFlight hf (List.Subset.refl _))

theorem Transfer.reorder {y : System} (h : Transfer y) (d : Side) (i : Nat) :
    Continues y (y.act (.reorder d i)) := by
  rcases act_reorder_cases y d i with e | ⟨f, hf, e⟩ <;> rw [e]
  · exact h.continues_self
  · exact h.setInFlight_continues (append_subset_inFlight hf List.eraseIdx_subset)

/-! ## Every undisturbed action -/

theorem Transfer.act {y : System} (h : Transfer y) {a : SysAction} (ha : Undisturbed a = true) :
    Continues y (y.act a) := by
  cases a with
  | event d e =>
    obtain ⟨he, hframe⟩ := arrival_of_undisturbed (TransferFrame y.left) ha
    rw [act_event_of_not_frame hframe]
    cases d with
    | left => exact h.left_event he
    | right => exact h.right_event he
  | deliver d i => exact h.deliver d i
  | drop d i => exact h.setInFlight_continues List.eraseIdx_subset
  | duplicate d i => exact h.duplicate d i
  | reorder d i => exact h.reorder d i
  | corrupt d i bytes => cases ha

/-- Settles O59: by the action, and for an event by what it does at its block. -/
theorem channelKeepsTheTransfer : Obligations.ChannelKeepsTheTransfer :=
  fun _ _ h ha => (h.act ha).1

theorem Transfer.run {y : System} (h : Transfer y) {as : List SysAction} (has : ∀ a ∈ as, Undisturbed a = true) :
    Continues y (y.run as) := by
  induction as generalizing y with
  | nil => exact h.continues_self
  | cons a rest ih =>
    obtain ⟨hfirst, hcfg, hinbuf⟩ := h.act (has a List.mem_cons_self)
    obtain ⟨hrun, hcfg', hinbuf'⟩ := ih hfirst fun b hb => has b (List.mem_cons_of_mem a hb)
    exact ⟨hrun, hcfg'.trans hcfg, hinbuf'.trans hinbuf⟩

/-! ## The whole input -/

/-- The packets cover the input (43_sender_cumulative R220). -/
theorem inLen_le_packetCount_mul (c : Cfg) (h : 1 ≤ c.chunk.toNat) :
    c.inLen.toNat ≤ packetCount c * c.chunk.toNat := by
  have hdiv := Nat.div_add_mod (c.inLen.toNat + c.chunk.toNat - 1) c.chunk.toNat
  have hmod := Nat.mod_lt (c.inLen.toNat + c.chunk.toNat - 1) h
  rw [packetCount, Nat.mul_comm]
  omega

/-- A done receiver expects the END number, which every packet of the input is before. -/
theorem Transfer.outLen_of_done {y : System} (h : Transfer y) (hdone : y.right.eng.done = true) :
    y.right.eng.outLen = y.left.cfg.inLen := by
  have hcover := inLen_le_packetCount_mul y.left.cfg (h.leftConfig.chunk h.senderRole).1
  refine BitVec.eq_of_toNat_eq ?_
  rw [h.delivered, h.complete hdone, h.leftEndSeq, Nat.add_sub_cancel_left, Nat.min_eq_left hcover]

/-- Settles O60: the run keeps the transfer and its input, and what a done receiver delivered is all of it. -/
theorem doneReceiverHoldsTheInput : Obligations.DoneReceiverHoldsTheInput := by
  intro y as h has z hdone
  obtain ⟨hz, hcfg, hinbuf⟩ := h.run has
  have hlen : z.right.eng.outLen = y.left.cfg.inLen := hcfg ▸ hz.outLen_of_done hdone
  refine ⟨hlen, fun i hi => ?_⟩
  rw [← hinbuf]
  exact hz.output i (hlen ▸ hi)

end Sys2Proof.Machine
end
